-- ==== Sys2Proof/Word.lean ====
section
/-!
DEFINITION. The words of the engine: the six-bit symbol, the 32-bit command word, and the fixed
sizes of the code (00_scope.md R2, R6, R7; 10_state.md R21).
-/

namespace Sys2Proof

/-- A symbol: an element of GF(64) in its six-bit representation (10_state.md R21).
A value above 63 cannot be written (93_implementation_defined.md U9). -/
abbrev Sym := BitVec 6

/-- A command word, bit 31 most significant (30_encoding.md R70). -/
abbrev Cmd := BitVec 32

/-- A sequence of exactly 63 symbols: a received word or a vector port (10_state.md R29, R34). -/
abbrev Word63 := Vector Sym 63

/-- A sequence of 63 booleans, one per codeword position (10_state.md R35). -/
abbrev Mask63 := Vector Bool 63

/-- A polynomial: its coefficients, index `i` the coefficient of `x^i` (10_state.md R32). -/
abbrev Poly := List Sym

/-- `N`, the codeword length (00_scope.md R2). -/
abbrev codeLength : Nat := 63

/-- `K`, the message length (00_scope.md R2). -/
abbrev messageLength : Nat := 42

/-- `NPAR`, the degree of the generator and the number of syndromes (00_scope.md R2). -/
abbrev parityCount : Nat := 21

/-- `CAP`, the most coefficients of a polynomial on a port (00_scope.md R6, 41_poly.md R122). -/
abbrev capacity : Nat := 63

end Sys2Proof
end

