-- ==== Sys2Proof/Config.lean ====
section
/-!
DEFINITION. The parameters the source leaves open (00_scope.md R6; 92_eei_decisions.md D1, D2, D3),
with the spec's defaults. `ALPHA` is not a parameter of its own: under the construction of
10_state.md R22 it is the element x, `POW[1] = 2`.
-/

namespace Sys2Proof

/-- What one implementation fixes: the field's reduction polynomial and the generator's scalar. -/
structure Params where
  /-- `PRIM_POLY`, a seven-bit mask, bit `k` the coefficient of `x^k` (00_scope.md R6). -/
  primPoly : BitVec 7
  /-- `GEN_SCALE`, the leading coefficient of the generator (10_state.md R26). -/
  genScale : Sym
  deriving DecidableEq, Repr

/-- The default parameters, under which every number of the spec is computed: `PRIM_POLY = 0x43`
and a monic generator. DESIGN CHOICE (the spec's defaults D1 to D3 taken), log entry 1. -/
def Config.params : Params := { primPoly := 0x43, genScale := 1 }

end Sys2Proof
end

