-- ==== Sys2Proof/Syntax.lean ====
section
/-!
DEFINITION. The 19 operations of 30_encoding.md R73, one constructor per row of opcode_table.json,
with the scalar operands the row's format reads from the command word (R71, R72). Vector and mask
operands are on the ports and are no part of the command.
-/

namespace Sys2Proof

/-- An operation with its scalar operands: `a` is `CMD[5:0]`, `b` is `CMD[13:8]`. -/
inductive Instr where
  /-- `GF.ADD a, b` (40_field.md R100). -/
  | gfAdd (a b : Sym)
  /-- `GF.MUL a, b` (40_field.md R101). -/
  | gfMul (a b : Sym)
  /-- `GF.DIV a, b`: dividend `a`, divisor `b` (40_field.md R102). -/
  | gfDiv (a b : Sym)
  /-- `P.ADD` (41_poly.md R123). -/
  | pAdd
  /-- `P.SMUL c` (41_poly.md R124). -/
  | pSmul (c : Sym)
  /-- `P.MUL` (41_poly.md R125). -/
  | pMul
  /-- `P.DIVMOD` (41_poly.md R126). -/
  | pDivmod
  /-- `P.EVAL x` (41_poly.md R127). -/
  | pEval (x : Sym)
  /-- `P.DERIV` (41_poly.md R128). -/
  | pDeriv
  /-- `P.TRUNC m`: the scalar is an integer, a degree bound (41_poly.md R129). -/
  | pTrunc (m : BitVec 6)
  /-- `P.ISZERO` (41_poly.md R130). -/
  | pIszero
  /-- `RS.SYND` (43_decoder_stages.md R176). -/
  | rsSynd
  /-- `RS.ERASLOC` (43_decoder_stages.md R177). -/
  | rsErasloc
  /-- `RS.MODSYND` (43_decoder_stages.md R178). -/
  | rsModsynd
  /-- `RS.EUCLID e0`: the scalar is an integer, an erasure count (43_decoder_stages.md R180). -/
  | rsEuclid (e0 : BitVec 6)
  /-- `RS.ROOTS` (43_decoder_stages.md R182). -/
  | rsRoots
  /-- `RS.FORNEY` (43_decoder_stages.md R183). -/
  | rsForney
  /-- `RS.ENC` (42_encoder.md R161). -/
  | rsEnc
  /-- `RS.DEC` (44_decoder_top.md R221). -/
  | rsDec
  deriving DecidableEq, Repr

/-- The command formats of 30_encoding.md R72. -/
inductive Format where
  | ss | pp | ps | p | m | wm | w
  deriving DecidableEq, Repr

/-- Whether the format reads the scalar field `A` (30_encoding.md R72). -/
def Format.readsA : Format → Bool
  | .ss | .ps => true
  | .pp | .p | .m | .wm | .w => false

/-- Whether the format reads the scalar field `B` (30_encoding.md R72). -/
def Format.readsB : Format → Bool
  | .ss => true
  | .ps | .pp | .p | .m | .wm | .w => false

end Sys2Proof
end

