-- ==== Sys2Proof/WellFormed.lean ====
section
/-!
DEFINITION. The checks that data of the model must pass to mean what the spec means by it. An
`Instr` needs none beyond its types: its scalars are six bits wide, so an operand outside
`[0, 63]` cannot be written (30_encoding.md R71). The checks are on polynomials (10_state.md R32)
and on the length of a polynomial carried by a port (41_poly.md R121, R122).
-/

namespace Sys2Proof

/-- Every operation that can be written down is well formed: each scalar it carries fits its
six-bit field by type (30_encoding.md R71). -/
def Instr.wellFormed : Instr → Bool
  | .gfAdd _ _ | .gfMul _ _ | .gfDiv _ _ => true
  | .pAdd | .pMul | .pDivmod | .pDeriv | .pIszero => true
  | .pSmul _ | .pEval _ | .pTrunc _ => true
  | .rsSynd | .rsErasloc | .rsModsynd | .rsRoots | .rsForney => true
  | .rsEuclid _ => true
  | .rsEnc | .rsDec => true

/-- The canonical form of a polynomial: not empty, and its last coefficient is nonzero unless it
is the only one (10_state.md R32). -/
def Poly.canonical (p : Poly) : Bool :=
  p.length != 0 && (p.length == 1 || p.getLastD 0#6 != 0#6)

/-- A vector result's length is between 1 and 63 (41_poly.md R121). -/
def portLengthOk (v : List Sym) : Bool :=
  1 ≤ v.length && v.length ≤ capacity

end Sys2Proof
end

