-- ==== Sys2Proof/Decode.lean ====
section
/-!
DEFINITION. Decoding a command word (30_encoding.md R70 to R76) and, after it, encoding one (R80).
The decoder is total on all 2^32 words: each selects exactly one of the 19 operations or is
illegal, and an illegal word is refused by name. Every illegal word gives the one status
`ILLEGAL_COMMAND` (60_exceptions.md R246); the names below say which rule it breaks.
-/

namespace Sys2Proof

/-- Why a command word is illegal. -/
inductive DecodeError where
  /-- `OP` is not in the table of R73 (30_encoding.md R75). -/
  | unassignedOpcode (op : BitVec 8)
  /-- A bit of `Z1` (23:14) or `Z0` (7:6) is 1 (30_encoding.md R74). -/
  | reservedBitSet
  /-- A scalar field the format does not read is nonzero (30_encoding.md R74). -/
  | unreadScalarSet
  deriving DecidableEq, Repr

/-- The field `OP`, bits 31:24. -/
def Cmd.op (w : Cmd) : BitVec 8 := w.extractLsb' 24 8

/-- The reserved field `Z1`, bits 23:14. -/
def Cmd.z1 (w : Cmd) : BitVec 10 := w.extractLsb' 14 10

/-- The scalar field `B`, bits 13:8 (30_encoding.md R71). -/
def Cmd.b (w : Cmd) : Sym := w.extractLsb' 8 6

/-- The reserved field `Z0`, bits 7:6. -/
def Cmd.z0 (w : Cmd) : BitVec 2 := w.extractLsb' 6 2

/-- The scalar field `A`, bits 5:0 (30_encoding.md R71). -/
def Cmd.a (w : Cmd) : Sym := w.extractLsb' 0 6

/-- A row of the opcode map: the code, the format, and the operation the scalars make. -/
structure OpRow where
  /-- The operation code. -/
  op : BitVec 8
  /-- The format, which says which scalar fields are read. -/
  format : Format
  /-- The operation, from `A` and `B`. -/
  make : Sym → Sym → Instr

/-- The opcode map of 30_encoding.md R73, in its order. -/
def opcodeMap : List OpRow :=
  [ ⟨0x10#8, .ss, fun a b => .gfAdd a b⟩,
    ⟨0x11#8, .ss, fun a b => .gfMul a b⟩,
    ⟨0x12#8, .ss, fun a b => .gfDiv a b⟩,
    ⟨0x20#8, .pp, fun _ _ => .pAdd⟩,
    ⟨0x21#8, .ps, fun a _ => .pSmul a⟩,
    ⟨0x22#8, .pp, fun _ _ => .pMul⟩,
    ⟨0x23#8, .pp, fun _ _ => .pDivmod⟩,
    ⟨0x24#8, .ps, fun a _ => .pEval a⟩,
    ⟨0x25#8, .p, fun _ _ => .pDeriv⟩,
    ⟨0x26#8, .ps, fun a _ => .pTrunc a⟩,
    ⟨0x27#8, .p, fun _ _ => .pIszero⟩,
    ⟨0x30#8, .wm, fun _ _ => .rsSynd⟩,
    ⟨0x31#8, .m, fun _ _ => .rsErasloc⟩,
    ⟨0x32#8, .pp, fun _ _ => .rsModsynd⟩,
    ⟨0x33#8, .ps, fun a _ => .rsEuclid a⟩,
    ⟨0x34#8, .p, fun _ _ => .rsRoots⟩,
    ⟨0x35#8, .pp, fun _ _ => .rsForney⟩,
    ⟨0x40#8, .w, fun _ _ => .rsEnc⟩,
    ⟨0x41#8, .wm, fun _ _ => .rsDec⟩ ]

/-- Decoding, in the order of 30_encoding.md R76: the opcode (R75), then the reserved bits and the
scalar fields the format does not read (R74). -/
def decode (w : Cmd) : Except DecodeError Instr :=
  match opcodeMap.find? (fun r => r.op == w.op) with
  | none => .error (.unassignedOpcode w.op)
  | some r =>
    if w.z1 ≠ 0#10 ∨ w.z0 ≠ 0#2 then .error .reservedBitSet
    else if (r.format.readsA = false ∧ w.a ≠ 0#6) ∨ (r.format.readsB = false ∧ w.b ≠ 0#6) then
      .error .unreadScalarSet
    else .ok (r.make w.a w.b)

/-- The command word of an operation code and two scalars, reserved bits 0 (30_encoding.md R70). -/
def cmdWord (op : BitVec 8) (a b : Sym) : Cmd :=
  op ++ 0#10 ++ b ++ 0#2 ++ a

/-- The operation code of an operation (30_encoding.md R73, R80). -/
def opcode : Instr → BitVec 8
  | .gfAdd _ _ => 0x10#8
  | .gfMul _ _ => 0x11#8
  | .gfDiv _ _ => 0x12#8
  | .pAdd => 0x20#8
  | .pSmul _ => 0x21#8
  | .pMul => 0x22#8
  | .pDivmod => 0x23#8
  | .pEval _ => 0x24#8
  | .pDeriv => 0x25#8
  | .pTrunc _ => 0x26#8
  | .pIszero => 0x27#8
  | .rsSynd => 0x30#8
  | .rsErasloc => 0x31#8
  | .rsModsynd => 0x32#8
  | .rsEuclid _ => 0x33#8
  | .rsRoots => 0x34#8
  | .rsForney => 0x35#8
  | .rsEnc => 0x40#8
  | .rsDec => 0x41#8

/-- The scalar an operation puts in the field `A`; 0 where its format does not read it. -/
def scalarA : Instr → Sym
  | .gfAdd a _ | .gfMul a _ | .gfDiv a _ => a
  | .pSmul c => c
  | .pEval x => x
  | .pTrunc m => m
  | .rsEuclid e0 => e0
  | .pAdd | .pMul | .pDivmod | .pDeriv | .pIszero => 0#6
  | .rsSynd | .rsErasloc | .rsModsynd | .rsRoots | .rsForney | .rsEnc | .rsDec => 0#6

/-- The scalar an operation puts in the field `B`; 0 where its format does not read it. -/
def scalarB : Instr → Sym
  | .gfAdd _ b | .gfMul _ b | .gfDiv _ b => b
  | .pSmul _ | .pEval _ | .pTrunc _ | .rsEuclid _ => 0#6
  | .pAdd | .pMul | .pDivmod | .pDeriv | .pIszero => 0#6
  | .rsSynd | .rsErasloc | .rsModsynd | .rsRoots | .rsForney | .rsEnc | .rsDec => 0#6

/-- The command word of an operation (30_encoding.md R80). -/
def encode (i : Instr) : Cmd := cmdWord (opcode i) (scalarA i) (scalarB i)

/-- The operation the decoder reads from a table row's bits. The command is one 32-bit value with
no byte order (20_memory.md R52), numbered as the table numbers it; a number that is no 32-bit
word is refused. Bits above `nbits` are 0 as the caller gives them (log entry 14). -/
def decodeTableWord (_nbits w : Nat) : Option Instr :=
  if w < 2 ^ 32 then
    match decode (BitVec.ofNat 32 w) with
    | .ok i => some i
    | .error _ => none
  else none

end Sys2Proof
end

