-- ==== Sys2Proof/Machine/Constants.lean ====
section
/-!
DEFINITION. The three constant tables of the engine as plain data (10_state.md R20, R22, R23, R26),
and their values under the default parameters as 10_state.md R25 and R28 print them. How the tables
are built from the parameters is `Constants.build` (Machine/Tables.lean); that the two agree is
proved in Laws/Tables.lean.
-/

namespace Sys2Proof.Machine

/-- The constant tables. They are state (10_state.md R20), established by reset and written by no
command (70_reset_and_hazards.md R274). -/
structure Constants where
  /-- `POW[0..62]`, the powers of the primitive element (10_state.md R22). -/
  pow : Vector Sym 63
  /-- `LOG`, an integer in `[0, 62]` for each nonzero symbol: the entry for the symbol `s` stands
  at index `s - 1`, and there is no entry for the symbol 0 (10_state.md R23). -/
  log : Vector (Fin 63) 63
  /-- `GEN[0..21]`, the generator polynomial (10_state.md R26). -/
  gen : Vector Sym 22
  deriving DecidableEq, Repr

/-- `POW` under the default parameters, as 10_state.md R25 prints it. -/
def standardPow : Vector Sym 63 :=
  #v[1, 2, 4, 8, 16, 32, 3, 6, 12, 24, 48, 35, 5, 10, 20, 40,
     19, 38, 15, 30, 60, 59, 53, 41, 17, 34, 7, 14, 28, 56, 51, 37,
     9, 18, 36, 11, 22, 44, 27, 54, 47, 29, 58, 55, 45, 25, 50, 39,
     13, 26, 52, 43, 21, 42, 23, 46, 31, 62, 63, 61, 57, 49, 33]

/-- `LOG` under the default parameters, as 10_state.md R25 prints it, from the symbol 1 on. -/
def standardLog : Vector (Fin 63) 63 :=
  #v[0, 1, 6, 2, 12, 7, 26, 3, 32, 13, 35, 8, 48, 27, 18,
     4, 24, 33, 16, 14, 52, 36, 54, 9, 45, 49, 38, 28, 41, 19, 56,
     5, 62, 25, 11, 34, 31, 17, 47, 15, 23, 53, 51, 37, 44, 55, 40,
     10, 61, 46, 30, 50, 22, 39, 43, 29, 60, 42, 21, 20, 59, 57, 58]

/-- `GEN` under the default parameters, as 10_state.md R28 prints it. -/
def standardGen : Vector Sym 22 :=
  #v[58, 62, 59, 7, 35, 58, 63, 47, 51, 6, 33, 43, 44, 27, 7, 53, 39, 62, 52, 41, 44, 1]

/-- The tables after reset under the default parameters (10_state.md R25, R28, R41). -/
def Constants.standard : Constants :=
  { pow := standardPow, log := standardLog, gen := standardGen }

end Sys2Proof.Machine
end

