-- ==== Sys2Proof/Machine/State.lean ====
section
/-!
DEFINITION. The state of the engine: the constant tables and the ready bit, which persist
(10_state.md R20, R40); the ports of a transaction (R29, R30); and the host's acts still to come
(60_exceptions.md R256). The engine has no program counter, no registers, no flags, no memory and no
mode (10_state.md R36 to R39; 20_memory.md R50; 60_exceptions.md R257).
-/

namespace Sys2Proof.Machine

/-- The status codes of a response (60_exceptions.md R240). Their numbers are `Status.code`. -/
inductive Status where
  /-- 0: the operation completed and wrote its result ports. -/
  | ok
  /-- 1: raised by `RS.DEC` and `RS.FORNEY` (R241). -/
  | decodeFailure
  /-- 2: raised by `RS.DEC` and `RS.ERASLOC` (R242). -/
  | erasureCapacityExceeded
  /-- 3: raised by `RS.ENC` (R243). -/
  | invalidMessageLength
  /-- 4: raised by `GF.DIV` (R244). -/
  | divisionByZero
  /-- 5: raised by `P.DIVMOD` (R245). -/
  | divisionByZeroPolynomial
  /-- 6: raised by command decode (R246). -/
  | illegalCommand
  /-- 7: raised by `RS.SYND`, `RS.DEC` and `RS.EUCLID` (R247). -/
  | badOperand
  /-- 8: raised by `P.MUL` and `RS.MODSYND` (R248). -/
  | resultOverflow
  deriving DecidableEq, Repr

/-- The input ports of a transaction (10_state.md R29). -/
structure Request where
  /-- `CMD`: the command word. -/
  cmd : Cmd
  /-- `LA`: the number of valid symbols in `VA`. -/
  la : BitVec 6
  /-- `VA[0..62]`: entries at indices `>= LA` are ignored by polynomial operands. -/
  va : Word63
  /-- `LB`: the number of valid symbols in `VB`. -/
  lb : BitVec 6
  /-- `VB[0..62]`. -/
  vb : Word63
  /-- `EM[0..62]`: the erasure mask. -/
  em : Mask63
  deriving DecidableEq, Repr

/-- The output ports of a transaction (10_state.md R30), delivered together when it ends. A port
the operation does not write is unspecified and has no value here (92_eei_decisions.md D25;
93_implementation_defined.md U4, U5). `LR` and `LQ` are the lengths of `vr` and `vq` (U5, log
entry 12). -/
structure Response where
  /-- `STATUS`: every response defines it. -/
  status : Status
  /-- `SR`: the scalar result. -/
  sr : Option Sym := none
  /-- `FR`: the flag result. -/
  fr : Option Bool := none
  /-- `CR`: the count result. -/
  cr : Option (BitVec 6) := none
  /-- `VR` with `LR`: the first vector result, exactly `LR` symbols. -/
  vr : Option (List Sym) := none
  /-- `VQ` with `LQ`: the second vector result, exactly `LQ` symbols. -/
  vq : Option (List Sym) := none
  /-- `RM`: the result mask. -/
  rm : Option Mask63 := none
  deriving DecidableEq, Repr

/-- One act of the host, or of whatever drives the reset input, in one step of the model
(60_exceptions.md R256; 70_reset_and_hazards.md R270, R272). -/
inductive HostInput where
  /-- The host does nothing. -/
  | idle
  /-- The host presents a command with its ports. -/
  | transaction (r : Request)
  /-- Reset is asserted. -/
  | assertReset
  /-- The host presents a command and reset is asserted before the transaction ends (R272). -/
  | resetDuringTransaction (r : Request)
  deriving DecidableEq, Repr

/-- Why the machine stops with a fault. The spec has no condition that halts the engine
(93_implementation_defined.md Part 1); the one fault is the model's own. -/
inductive Fault where
  /-- Raised by `RS.EUCLID` and `RS.DEC` when the Euclidean loop has made 21 divisions (the bound of
  70_reset_and_hazards.md R277) and its stop test still fails. With tables built as 10_state.md R22
  says, at most 10 divisions are made (43_decoder_stages.md R181 (e)), so no run from reset reaches
  it. Safe: the model stops where the spec says nothing. Log entry 10. -/
  | euclidDidNotStop
  deriving DecidableEq, Repr

/-- Why a step has no meaning. -/
inductive Refusal where
  /-- An instruction that has no meaning in the model yet, by its mnemonic: none is left. Raised by
  `exec` alone. Safe. -/
  | notModelled (mnemonic : String)
  /-- A command presented while `READY = 0`: the spec gives it no meaning and asks a model to refuse
  it (10_state.md R40; 70_reset_and_hazards.md R273; 93_implementation_defined.md U2). Raised by
  every operation and by command decode. Safe. Log entry 6. -/
  | commandBeforeReady
  deriving DecidableEq, Repr

/-- The state of one engine and of the host's side of its ports. -/
structure State where
  /-- `READY` (10_state.md R40). -/
  ready : Bool
  /-- `POW`, `LOG` and `GEN` (10_state.md R22, R23, R26). -/
  const : Constants
  /-- The input ports as the last transaction sampled them (10_state.md R29). No step reads them
  before sampling them anew (R31; log entry 3). -/
  ports : Request
  /-- The output ports: the last response, or no value before one is delivered (10_state.md R30,
  R41; 60_exceptions.md R256). -/
  resp : Option Response
  /-- The host's acts still to come, oldest first; an empty list is a host that does nothing. The
  model's own field: log entry 5. -/
  inputs : List HostInput
  deriving DecidableEq, Repr

/-- The input ports right after reset. The spec gives them no value (10_state.md R41); all zero is a
DESIGN CHOICE, log entry 2. -/
def Request.zero : Request :=
  { cmd := 0#32, la := 0#6, va := Vector.replicate 63 0#6, lb := 0#6,
    vb := Vector.replicate 63 0#6,
    em := Vector.replicate 63 false }

/-- The engine right after reset: ready, the tables established, no response, and a host that
presents nothing (10_state.md R41; 70_reset_and_hazards.md R271). -/
def State.reset : State :=
  { ready := true, const := Constants.standard, ports := Request.zero, resp := none, inputs := [] }

end Sys2Proof.Machine
end

