-- ==== Sys2Proof/Machine/Ops.lean ====
section
/-!
DEFINITION. The named operations over the state that every meaning uses: reading a table
(10_state.md R22, R23; 40_field.md R104), raising a status and delivering a response
(60_exceptions.md R250 to R253; 10_state.md R30, R31), and the reset operations
(70_reset_and_hazards.md R270 to R272). The engine has no trap entry and no return from one
(60_exceptions.md R252): raising a status is all there is of an exception.
-/

namespace Sys2Proof.Machine

/-- `POW[e]`, for an index of the table (10_state.md R22). -/
def powAt (K : Constants) (e : Fin 63) : Sym := K.pow[e]

/-- `alpha_pow(e) = POW[e mod 63]` (40_field.md R104). -/
def alphaPow (K : Constants) (e : Nat) : Sym :=
  powAt K ⟨e % 63, Nat.mod_lt e (by decide)⟩

/-- A nonzero symbol has an entry in `LOG`: its value less one is an index of the table. -/
theorem log_index_lt (s : Sym) (h : s ≠ 0#6) : s.toNat - 1 < 63 := by
  have h1 : s.toNat < 2 ^ 6 := s.isLt
  have h2 : s.toNat ≠ 0 := fun h0 => h (BitVec.eq_of_toNat_eq (by simpa using h0))
  omega

/-- `LOG[s]` for a nonzero symbol. `LOG[0]` does not exist, so the read takes a proof that the
symbol is not 0 (10_state.md R23; 93_implementation_defined.md U1). -/
def logOf (K : Constants) (s : Sym) (h : s ≠ 0#6) : Fin 63 :=
  K.log[s.toNat - 1]'(log_index_lt s h)

/-- Position `i`'s evaluation point `α^(-i) = alpha_pow((63 - i) mod 63)` (20_memory.md R53;
40_field.md R104). -/
def locatorPoint (K : Constants) (i : Nat) : Sym := alphaPow K ((63 - i) % 63)

/-- The XOR of `f 0, …, f (n-1)`. -/
def xorSum (f : Nat → Sym) : Nat → Sym
  | 0 => 0#6
  | n + 1 => xorSum f n ^^^ f n

/-- How a computation ends early: a raised status (60_exceptions.md R250), or a fault of the
machine. -/
inductive Abort where
  /-- `raise <Status>`. -/
  | raise (c : Status)
  /-- The machine stops. -/
  | stop (f : Fault)
  deriving DecidableEq, Repr

/-- The response of an operation that raised a status: `STATUS` alone (60_exceptions.md R251). -/
def Response.failed (c : Status) : Response := { status := c }

/-- The end of a transaction: its response is on the output ports and nothing else has changed
(10_state.md R31; 60_exceptions.md R250, R253). A command has a meaning only when `READY = 1`
(10_state.md R40; 93_implementation_defined.md U2). -/
def deliver (s : State) (r : Response) : Host.Outcome State Fault Refusal :=
  if s.ready then .next { s with resp := some r } else .refused .commandBeforeReady

/-- The end of an operation: its response, or what a raised status leaves, which `onRaise` gives. -/
def finishWith (onRaise : Status → Response) (s : State) (x : Except Abort Response) :
    Host.Outcome State Fault Refusal :=
  match x with
  | .ok r => deliver s r
  | .error (.raise c) => deliver s (onRaise c)
  | .error (.stop f) => if s.ready then .fault f else .refused .commandBeforeReady

/-- The end of an operation on whose raise `STATUS` alone is defined (60_exceptions.md R251): every
operation but `RS.DEC`. -/
def finish (s : State) (x : Except Abort Response) : Host.Outcome State Fault Refusal :=
  finishWith Response.failed s x

/-- A transaction starts: all input ports are sampled together (20_memory.md R55). -/
def samplePorts (s : State) (r : Request) : State := { s with ports := r }

/-- Reset is asserted: `READY = 0`, any transaction is abandoned without a response, and every port is
as after reset (10_state.md R40, R41; 70_reset_and_hazards.md R270 to R272). What the tables hold
while `READY = 0` is not observable (R270); they are left as they are, log entry 7. -/
def assertReset (s : State) : State :=
  { s with ready := false, ports := Request.zero, resp := none }

end Sys2Proof.Machine
end

