-- ==== Sys2Proof/Machine/Field.lean ====
section
/-!
DEFINITION. Field arithmetic (40_field.md): the functions `gf_add`, `gf_mul`, `gf_div` and the
operations `GF.ADD`, `GF.MUL`, `GF.DIV`.
-/

namespace Sys2Proof.Machine

/-- `gf_add(a, b) = a ^ b` (40_field.md R100). -/
def gfAdd (a b : Sym) : Sym := a ^^^ b

/-- `gf_mul(a, b)`: 0 if a factor is 0, else `POW[(LOG[a] + LOG[b]) mod 63]` (40_field.md R101). -/
def gfMul (K : Constants) (a b : Sym) : Sym :=
  if ha : a = 0#6 then 0#6
  else if hb : b = 0#6 then 0#6
  else alphaPow K ((logOf K a ha).val + (logOf K b hb).val)

/-- `gf_div(a, b)`: raises `DIVISION_BY_ZERO` if `b = 0`, tested first; 0 if `a = 0`; else
`POW[(LOG[a] - LOG[b] + 63) mod 63]`, the difference made non-negative before the reduction
(40_field.md R102). -/
def gfDiv (K : Constants) (a b : Sym) : Except Abort Sym :=
  if hb : b = 0#6 then .error (.raise .divisionByZero)
  else if ha : a = 0#6 then .ok 0#6
  else .ok (alphaPow K ((logOf K a ha).val + 63 - (logOf K b hb).val))

/-- `GF.ADD` (40_field.md R100). -/
def execGfAdd (a b : Sym) (s : State) : Host.Outcome State Fault Refusal :=
  finish s (.ok { status := .ok, sr := some (gfAdd a b) })

/-- `GF.MUL` (40_field.md R101). -/
def execGfMul (a b : Sym) (s : State) : Host.Outcome State Fault Refusal :=
  finish s (.ok { status := .ok, sr := some (gfMul s.const a b) })

/-- `GF.DIV` (40_field.md R102). -/
def execGfDiv (a b : Sym) (s : State) : Host.Outcome State Fault Refusal :=
  finish s do
    let q ← gfDiv s.const a b
    return { status := .ok, sr := some q }

end Sys2Proof.Machine
end

