-- ==== Sys2Proof/Machine/Operands.lean ====
section
/-!
DEFINITION. The operand forms: polynomials on a vector port (10_state.md R32, R33; 41_poly.md R120,
R121), words and masks (10_state.md R34, R35; 43_decoder_stages.md R175).
-/

namespace Sys2Proof.Machine

/-- A sequence without its trailing zeros. -/
def stripZeros : List Sym → List Sym
  | [] => []
  | c :: cs =>
    match stripZeros cs with
    | [] => if c = 0#6 then [] else [c]
    | d :: ds => c :: d :: ds

/-- `norm(s)`: the canonical form of a sequence: trailing zeros removed, one element kept, and `[0]`
for the empty sequence (10_state.md R33). -/
def norm (s : List Sym) : Poly :=
  match stripZeros s with
  | [] => [0#6]
  | c :: cs => c :: cs

/-- The tracked degree of a canonical polynomial, 0 for the zero polynomial (10_state.md R32). -/
def deg (p : Poly) : Nat := p.length - 1

/-- `coef(P, i)`: the coefficient of `x^i`, 0 beyond the degree (00_scope.md R8). -/
def coef (p : Poly) (i : Nat) : Sym := p.getD i 0#6

/-- `lead(P)`: the coefficient at the tracked degree (00_scope.md R8). -/
def lead (p : Poly) : Sym := coef p (deg p)

/-- `in_poly`: the polynomial on a vector port with `len` valid symbols. Entries at indices
`>= len` are not read (41_poly.md R120; 30_encoding.md R77). -/
def inPoly (len : BitVec 6) (v : Word63) : Poly := norm (v.toList.take len.toNat)

/-- The polynomial operand on `LA`, `VA` (41_poly.md R120). -/
def polyA (s : State) : Poly := inPoly s.ports.la s.ports.va

/-- The polynomial operand on `LB`, `VB` (41_poly.md R120). -/
def polyB (s : State) : Poly := inPoly s.ports.lb s.ports.vb

/-- `out_poly`: the polynomial as a vector result, or `RESULT_OVERFLOW` if it has more than 63
coefficients (41_poly.md R121). -/
def outPoly (p : Poly) : Except Abort (List Sym) :=
  if p.length ≤ capacity then .ok p else .error (.raise .resultOverflow)

/-- `mask_word(r, em)`: the word with 0 at every erased position (43_decoder_stages.md R175). -/
def maskWord (r : Word63) (em : Mask63) : Word63 :=
  Vector.ofFn fun i => if em[i] then 0#6 else r[i]

/-- The masked received word on `VA` and `EM` (43_decoder_stages.md R175; 44_decoder_top.md R221). -/
def maskedWord (s : State) : Word63 := maskWord s.ports.va s.ports.em

/-- `popcount` of a mask (00_scope.md R7; 10_state.md R35). -/
def popcount (m : Mask63) : Nat := m.toList.count true

end Sys2Proof.Machine
end

