-- ==== Sys2Proof/Machine/Flags.lean ====
section
/-!
DEFINITION. The flag-like outputs (10_state.md R37): the numbers of the status codes
(60_exceptions.md R240) and the flag `FR`, written by `P.ISZERO` (41_poly.md R130), `RS.SYND`
(43_decoder_stages.md R176) and `RS.DEC` (44_decoder_top.md R220); and the length ports `LR`, `LQ`
as they are read off a response (10_state.md R30). The engine has no condition codes.
-/

namespace Sys2Proof.Machine

/-- The 8-bit number of a status (60_exceptions.md R240). -/
def statusCode : Status → BitVec 8
  | .ok => 0
  | .decodeFailure => 1
  | .erasureCapacityExceeded => 2
  | .invalidMessageLength => 3
  | .divisionByZero => 4
  | .divisionByZeroPolynomial => 5
  | .illegalCommand => 6
  | .badOperand => 7
  | .resultOverflow => 8

/-- `is_zero(P)`: the tracked degree is 0 and the one coefficient is 0 (41_poly.md R130). It is the
flag of `P.ISZERO` and, on the syndrome polynomial, of `RS.SYND`. -/
def isZero (p : Poly) : Bool := deg p == 0 && coef p 0 == 0#6

/-- The response of `RS.DEC` on success: `FR = 1` and the codeword on `VR` with `LR = 63`
(44_decoder_top.md R220, R224). -/
def decodeSuccess (c : Word63) : Response :=
  { status := .ok, fr := some true, vr := some c.toList }

/-- The response of `RS.DEC` on a raised status: `FR = 0`, the codeword ports without a value
(44_decoder_top.md R225; 60_exceptions.md R251). -/
def decodeFailed (c : Status) : Response := { status := c, fr := some false }

/-- The port `STATUS` (10_state.md R30). -/
def statusPort (r : Response) : BitVec 8 := statusCode r.status

/-- The port `LR`: the number of valid symbols in `VR` (10_state.md R30). -/
def lrPort (r : Response) : Option (BitVec 6) := r.vr.map fun v => BitVec.ofNat 6 v.length

/-- The port `LQ`: the number of valid symbols in `VQ` (10_state.md R30). -/
def lqPort (r : Response) : Option (BitVec 6) := r.vq.map fun v => BitVec.ofNat 6 v.length

end Sys2Proof.Machine
end

