-- ==== Sys2Proof/Machine/Poly.lean ====
section
/-!
DEFINITION. The polynomial algebra kernel (41_poly.md): its eight functions and eight operations.
The functions are for canonical polynomials of any length; the capacity is checked at the ports
(41_poly.md R122).
-/

namespace Sys2Proof.Machine

/-- The index-wise XOR of two sequences, the shorter read as zeros beyond its length. -/
def xorSeq : List Sym → List Sym → List Sym
  | [], q => q
  | p, [] => p
  | a :: p, b :: q => (a ^^^ b) :: xorSeq p q

/-- `p_add(P, Q)` (41_poly.md R123). -/
def pAdd (p q : Poly) : Poly := norm (xorSeq p q)

/-- A sequence with every element multiplied by a symbol. -/
def scaleSeq (K : Constants) (p : List Sym) (c : Sym) : List Sym := p.map fun a => gfMul K a c

/-- `p_smul(P, c)` (41_poly.md R124). -/
def pSmul (K : Constants) (p : Poly) (c : Sym) : Poly := norm (scaleSeq K p c)

/-- The full convolution of two sequences, one row of products for each coefficient of the first,
each row shifted one place further. -/
def convolve (K : Constants) : List Sym → List Sym → List Sym
  | [], _ => []
  | a :: p, q => xorSeq (q.map fun b => gfMul K a b) (0#6 :: convolve K p q)

/-- `p_mul(P, Q)` (41_poly.md R125). -/
def pMul (K : Constants) (p q : Poly) : Poly := norm (convolve K p q)

/-- The long division's loop from the index `n - 1 + deg(Q)` of the remainder down to `deg(Q)`: `quo`
holds the quotient's coefficients already found, those of index `n` and above (41_poly.md R126). -/
def divLoop (K : Constants) (q : Poly) :
    Nat → List Sym → List Sym → Except Abort (List Sym × List Sym)
  | 0, rem, quo => .ok (quo, rem)
  | n + 1, rem, quo =>
    if coef rem (n + deg q) = 0#6 then divLoop K q n rem (0#6 :: quo)
    else do
      let c ← gfDiv K (coef rem (n + deg q)) (lead q)
      divLoop K q n (xorSeq rem (List.replicate n 0#6 ++ q.map fun b => gfMul K c b)) (c :: quo)

/-- `p_divmod(P, Q)`: the quotient and the remainder, or `DIVISION_BY_ZERO_POLYNOMIAL`, tested before
the degrees are compared (41_poly.md R126; 60_exceptions.md R249). -/
def pDivmod (K : Constants) (p q : Poly) : Except Abort (Poly × Poly) :=
  if isZero q then .error (.raise .divisionByZeroPolynomial)
  else if deg p < deg q then .ok ([0#6], p)
  else do
    let (quo, rem) ← divLoop K q (deg p - deg q + 1) p []
    return (norm quo, norm rem)

/-- The evaluation's loop: `acc` the sum so far and `xp` the running power of `x`
(41_poly.md R127). -/
def evalLoop (K : Constants) (x : Sym) : List Sym → Sym → Sym → Sym
  | [], acc, _ => acc
  | c :: cs, acc, xp => evalLoop K x cs (acc ^^^ gfMul K c xp) (gfMul K xp x)

/-- `p_eval(P, x)` (41_poly.md R127). -/
def pEval (K : Constants) (p : Poly) (x : Sym) : Sym :=
  if x = 0#6 then coef p 0 else evalLoop K x p 0#6 1#6

/-- `p_deriv(P)`: coefficient `i` is `P[i+1]` for even `i` and 0 for odd `i` (41_poly.md R128). -/
def pDeriv (p : Poly) : Poly :=
  norm ((List.range (deg p)).map fun i => if i % 2 = 0 then coef p (i + 1) else 0#6)

/-- `p_trunc(P, m)`: the terms of degree at most `m` (41_poly.md R129). -/
def pTrunc (p : Poly) (m : Nat) : Poly := norm (p.take (m + 1))

/-- The response that carries one polynomial on `VR`. -/
def polyResponse (p : Poly) : Except Abort Response := do
  let v ← outPoly p
  return { status := .ok, vr := some v }

/-- `P.ADD` (41_poly.md R123). -/
def execPAdd (s : State) : Host.Outcome State Fault Refusal :=
  finish s (polyResponse (pAdd (polyA s) (polyB s)))

/-- `P.SMUL` (41_poly.md R124). -/
def execPSmul (c : Sym) (s : State) : Host.Outcome State Fault Refusal :=
  finish s (polyResponse (pSmul s.const (polyA s) c))

/-- `P.MUL`: the degrees are tested before anything is computed (41_poly.md R122, R125). -/
def execPMul (s : State) : Host.Outcome State Fault Refusal :=
  finish s
    (if deg (polyA s) + deg (polyB s) > capacity - 1 then .error (.raise .resultOverflow)
     else polyResponse (pMul s.const (polyA s) (polyB s)))

/-- `P.DIVMOD`: the quotient on `VQ`, the remainder on `VR` (41_poly.md R126). -/
def execPDivmod (s : State) : Host.Outcome State Fault Refusal :=
  finish s do
    let (q, r) ← pDivmod s.const (polyA s) (polyB s)
    let vq ← outPoly q
    let vr ← outPoly r
    return { status := .ok, vq := some vq, vr := some vr }

/-- `P.EVAL` (41_poly.md R127). -/
def execPEval (x : Sym) (s : State) : Host.Outcome State Fault Refusal :=
  finish s (.ok { status := .ok, sr := some (pEval s.const (polyA s) x) })

/-- `P.DERIV` (41_poly.md R128). -/
def execPDeriv (s : State) : Host.Outcome State Fault Refusal :=
  finish s (polyResponse (pDeriv (polyA s)))

/-- `P.TRUNC`: the scalar is an unsigned integer, the bound `m` (41_poly.md R129). -/
def execPTrunc (m : BitVec 6) (s : State) : Host.Outcome State Fault Refusal :=
  finish s (polyResponse (pTrunc (polyA s) m.toNat))

/-- `P.ISZERO` (41_poly.md R130). -/
def execPIszero (s : State) : Host.Outcome State Fault Refusal :=
  finish s (.ok { status := .ok, fr := some (isZero (polyA s)) })

end Sys2Proof.Machine
end

