-- ==== Sys2Proof/Machine/Stages.lean ====
section
/-!
DEFINITION. The decoder's stages (43_decoder_stages.md): the function of each step and its
operation, `RS.SYND`, `RS.ERASLOC`, `RS.MODSYND`, `RS.EUCLID`, `RS.ROOTS`, `RS.FORNEY`.
-/

namespace Sys2Proof.Machine

/-- The syndrome `S_j` of a word: the XOR over the positions of `w[i] * alpha_pow(i * j)`
(43_decoder_stages.md R176). -/
def syndrome (K : Constants) (w : Word63) (j : Nat) : Sym :=
  xorSum (fun i => gfMul K (coef w.toList i) (alphaPow K (i * j))) codeLength

/-- `rs_synd(w)`: index `j - 1` holds `S_j`, for `j = 1, …, 21` (43_decoder_stages.md R176). -/
def rsSynd (K : Constants) (w : Word63) : Poly :=
  norm ((List.range parityCount).map fun k => syndrome K w (k + 1))

/-- The erasure locator's product over the erased positions below `n`, in ascending order
(43_decoder_stages.md R177). -/
def erasureProduct (K : Constants) (em : Mask63) : Nat → Poly
  | 0 => [1#6]
  | n + 1 =>
    if em.toList.getD n false then pMul K (erasureProduct K em n) [1#6, alphaPow K n]
    else erasureProduct K em n

/-- `rs_erasloc(em)`: the erasure locator and the erasure count, or `ERASURE_CAPACITY_EXCEEDED`,
tested on the count before any product is formed (43_decoder_stages.md R177). -/
def rsErasloc (K : Constants) (em : Mask63) : Except Abort (Poly × Nat) :=
  if popcount em > parityCount then .error (.raise .erasureCapacityExceeded)
  else .ok (erasureProduct K em codeLength, popcount em)

/-- `rs_modsynd(G, S)`: the product modulo `x^21` (43_decoder_stages.md R178). -/
def rsModsynd (K : Constants) (g s : Poly) : Poly := pTrunc (pMul K g s) (parityCount - 1)

/-- The stopping bound `mu(e0)` (43_decoder_stages.md R179). -/
def mu (e0 : Nat) : Nat := (21 - e0) / 2

/-- The stopping bound `nu(e0)` (43_decoder_stages.md R179). -/
def nu (e0 : Nat) : Nat := (21 + e0 + 1) / 2 - 1

/-- `X21`: the polynomial `x^21` (00_scope.md R8). -/
def x21 : Poly := List.replicate 21 0#6 ++ [1#6]

/-- The Euclidean loop (43_decoder_stages.md R180): the stop test first, then one division. The
first argument is how many divisions may still be made; where none is left and the test still
fails, the machine stops (`Fault.euclidDidNotStop`, log entry 10). -/
def euclidLoop (K : Constants) (e0 : Nat) :
    Nat → Poly → Poly → Poly → Poly → Except Abort (Poly × Poly)
  | 0, _, rCur, _, vCur =>
    if deg rCur ≤ nu e0 ∧ deg vCur ≤ mu e0 then .ok (vCur, rCur)
    else .error (.stop .euclidDidNotStop)
  | n + 1, rPrev, rCur, vPrev, vCur =>
    if deg rCur ≤ nu e0 ∧ deg vCur ≤ mu e0 then .ok (vCur, rCur)
    else do
      let (q, rem) ← pDivmod K rPrev rCur
      euclidLoop K e0 n rCur rem vCur (pAdd vPrev (pMul K vCur q))

/-- `rs_euclid(T, e0)`: the locator and the evaluator, from the seeds `x^21, T` and `0, 1`
(43_decoder_stages.md R180), within the source's bound of 21 divisions
(70_reset_and_hazards.md R277). -/
def rsEuclid (K : Constants) (t : Poly) (e0 : Nat) : Except Abort (Poly × Poly) :=
  euclidLoop K e0 21 x21 t [0#6] [1#6]

/-- Whether position `i` is located: the locator vanishes at `α^(-i)` and its derivative does not
(43_decoder_stages.md R182). -/
def locatedAt (K : Constants) (l d : Poly) (i : Nat) : Bool :=
  pEval K l (locatorPoint K i) == 0#6 && pEval K d (locatorPoint K i) != 0#6

/-- The located positions (43_decoder_stages.md R182). -/
def rsRoots (K : Constants) (l : Poly) : Mask63 :=
  Vector.ofFn fun i => locatedAt K l (pDeriv l) i.val

/-- The magnitude at each of the listed positions: Forney's formula at a located one, 0 elsewhere
(43_decoder_stages.md R183). -/
def magnitudes (K : Constants) (l w d : Poly) : List Nat → Except Abort (List Sym)
  | [] => .ok []
  | i :: is =>
    if locatedAt K l d i then do
      let e ← gfDiv K (pEval K w (locatorPoint K i)) (pEval K d (locatorPoint K i))
      let es ← magnitudes K l w d is
      return e :: es
    else do
      let es ← magnitudes K l w d is
      return 0#6 :: es

/-- `rs_forney(L, W)`: the error pattern, the located positions and their count, or
`DECODE_FAILURE` (43_decoder_stages.md R183). -/
def rsForney (K : Constants) (l w : Poly) : Except Abort (List Sym × Mask63 × Nat) :=
  if pEval K l 0#6 = 0#6 then .error (.raise .decodeFailure)
  else if deg w ≥ deg l then .error (.raise .decodeFailure)
  else do
    let e ← magnitudes K l w (pDeriv l) (List.range codeLength)
    return (e, rsRoots K l, popcount (rsRoots K l))

/-- `RS.SYND` (43_decoder_stages.md R176). -/
def execRsSynd (s : State) : Host.Outcome State Fault Refusal :=
  finish s
    (if s.ports.la.toNat ≠ codeLength then .error (.raise .badOperand)
     else do
       let v ← outPoly (rsSynd s.const (maskedWord s))
       return { status := .ok, vr := some v, fr := some (isZero (rsSynd s.const (maskedWord s))) })

/-- `RS.ERASLOC` (43_decoder_stages.md R177). -/
def execRsErasloc (s : State) : Host.Outcome State Fault Refusal :=
  finish s do
    let (g, e0) ← rsErasloc s.const s.ports.em
    let v ← outPoly g
    return { status := .ok, vr := some v, cr := some (BitVec.ofNat 6 e0) }

/-- `RS.MODSYND` (43_decoder_stages.md R178): the degrees are tested before anything is computed. -/
def execRsModsynd (s : State) : Host.Outcome State Fault Refusal :=
  finish s
    (if deg (polyA s) + deg (polyB s) > capacity - 1 then .error (.raise .resultOverflow)
     else polyResponse (rsModsynd s.const (polyA s) (polyB s)))

/-- `RS.EUCLID`: the scalar is an unsigned integer, the erasure count (43_decoder_stages.md R180). -/
def execRsEuclid (e0 : BitVec 6) (s : State) : Host.Outcome State Fault Refusal :=
  finish s
    (if e0.toNat > 21 ∨ deg (polyA s) > 20 then .error (.raise .badOperand)
     else do
       let (v, r) ← rsEuclid s.const (polyA s) e0.toNat
       let vq ← outPoly v
       let vr ← outPoly r
       return { status := .ok, vq := some vq, vr := some vr })

/-- `RS.ROOTS` (43_decoder_stages.md R182). -/
def execRsRoots (s : State) : Host.Outcome State Fault Refusal :=
  finish s
    (.ok { status := .ok, rm := some (rsRoots s.const (polyA s)),
           cr := some (BitVec.ofNat 6 (popcount (rsRoots s.const (polyA s)))) })

/-- `RS.FORNEY` (43_decoder_stages.md R183): the error pattern is not normalised. -/
def execRsForney (s : State) : Host.Outcome State Fault Refusal :=
  finish s do
    let (e, loc, count) ← rsForney s.const (polyA s) (polyB s)
    return { status := .ok, vr := some e, rm := some loc, cr := some (BitVec.ofNat 6 count) }

end Sys2Proof.Machine
end

