-- ==== Sys2Proof/Machine/Decoder.lean ====
section
/-!
DEFINITION. The decoder's top level (44_decoder_top.md): `RS.DEC`, the composition of the stage
functions of 43_decoder_stages.md.
-/

namespace Sys2Proof.Machine

/-- The corrected word: each symbol of the masked word XOR its magnitude (44_decoder_top.md R224). -/
def correctedWord (w : Word63) (e : List Sym) : Word63 :=
  Vector.ofFn fun i => w[i] ^^^ e.getD i.val 0#6

/-- Steps 2 to 6 of `RS.DEC`, for a masked word `w` whose syndrome polynomial `synd` is not zero
(44_decoder_top.md R221). -/
def correctErrors (K : Constants) (w : Word63) (em : Mask63) (synd : Poly) :
    Except Abort Word63 := do
  let (g, e0) ← rsErasloc K em
  let (v, r) ← rsEuclid K (rsModsynd K g synd) e0
  let (e, _, count) ← rsForney K (pMul K v g) r
  if count ≠ deg (pMul K v g) then .error (.raise .decodeFailure)
  else return correctedWord w e

/-- The decoder on a masked word: step 1, the zero-syndrome fast path, then steps 2 to 6
(44_decoder_top.md R221, R222). -/
def rsDec (K : Constants) (w : Word63) (em : Mask63) : Except Abort Word63 :=
  if isZero (rsSynd K w) then .ok w else correctErrors K w em (rsSynd K w)

/-- `RS.DEC` (44_decoder_top.md R220, R221): on any raise `FR = 0` (R225). -/
def execRsDec (s : State) : Host.Outcome State Fault Refusal :=
  finishWith decodeFailed s
    (if s.ports.la.toNat ≠ codeLength then .error (.raise .badOperand)
     else do
       let c ← rsDec s.const (maskedWord s) s.ports.em
       return decodeSuccess c)

end Sys2Proof.Machine
end

