-- ==== Sys2Proof/Machine/Encoder.lean ====
section
/-!
DEFINITION. The encoder (42_encoder.md): `RS.ENC`.
-/

namespace Sys2Proof.Machine

/-- The generator polynomial the encoder uses (42_encoder.md R160). -/
def genPoly (K : Constants) : Poly := K.gen.toList

/-- A polynomial's coefficients as a word of exactly 63 symbols, zero above its degree
(10_state.md R34; 42_encoder.md R161). -/
def padWord (p : Poly) : Word63 := Vector.ofFn fun i => coef p i.val

/-- The codeword of a message: the message polynomial times the generator, padded to 63 symbols
(42_encoder.md R161). -/
def rsEnc (K : Constants) (message : List Sym) : Word63 :=
  padWord (pMul K (norm message) (genPoly K))

/-- `RS.ENC` (42_encoder.md R161): the length is tested before anything is computed. -/
def execRsEnc (s : State) : Host.Outcome State Fault Refusal :=
  finish s
    (if s.ports.la.toNat ≠ messageLength then .error (.raise .invalidMessageLength)
     else .ok { status := .ok, vr := some (rsEnc s.const (s.ports.va.toList.take 42)).toList })

end Sys2Proof.Machine
end

