-- ==== Sys2Proof/Machine/Dispatch.lean ====
section
/-!
DEFINITION. The one dispatch: each operation of 30_encoding.md R73 to its meaning.
-/

namespace Sys2Proof.Machine

/-- The effect of an operation on the ports its transaction sampled (10_state.md R31). -/
def exec (i : Instr) (s : State) : Host.Outcome State Fault Refusal :=
  match i with
  | .gfAdd a b => Sys2Proof.Machine.execGfAdd a b s
  | .gfMul a b => Sys2Proof.Machine.execGfMul a b s
  | .gfDiv a b => Sys2Proof.Machine.execGfDiv a b s
  | .pAdd => Sys2Proof.Machine.execPAdd s
  | .pSmul c => Sys2Proof.Machine.execPSmul c s
  | .pMul => Sys2Proof.Machine.execPMul s
  | .pDivmod => Sys2Proof.Machine.execPDivmod s
  | .pEval x => Sys2Proof.Machine.execPEval x s
  | .pDeriv => Sys2Proof.Machine.execPDeriv s
  | .pTrunc m => Sys2Proof.Machine.execPTrunc m s
  | .pIszero => Sys2Proof.Machine.execPIszero s
  | .rsSynd => Sys2Proof.Machine.execRsSynd s
  | .rsErasloc => Sys2Proof.Machine.execRsErasloc s
  | .rsModsynd => Sys2Proof.Machine.execRsModsynd s
  | .rsEuclid e0 => Sys2Proof.Machine.execRsEuclid e0 s
  | .rsRoots => Sys2Proof.Machine.execRsRoots s
  | .rsForney => Sys2Proof.Machine.execRsForney s
  | .rsEnc => Sys2Proof.Machine.execRsEnc s
  | .rsDec => Sys2Proof.Machine.execRsDec s

end Sys2Proof.Machine
end

