-- ==== Sys2Proof/Machine/Tables.lean ====
section
/-!
DEFINITION. How the constant tables are built from the parameters (10_state.md R22, R23, R26), which
parameters are legal (R22; 00_scope.md R6), and the end of initialisation
(70_reset_and_hazards.md R270).
-/

namespace Sys2Proof.Machine

/-- One step of the construction of `POW`: multiply by x and reduce (10_state.md R22). -/
def timesAlpha (primPoly v : BitVec 7) : BitVec 7 :=
  if (v <<< 1).getLsbD 6 then (v <<< 1) ^^^ primPoly else v <<< 1

/-- The seven-bit value after `n` steps, starting from `v`. -/
def alphaSteps (primPoly : BitVec 7) : Nat → BitVec 7 → BitVec 7
  | 0, v => v
  | n + 1, v => alphaSteps primPoly n (timesAlpha primPoly v)

/-- The values the construction writes, the first of `n` being `v` (10_state.md R22). -/
def powValues (primPoly : BitVec 7) : Nat → BitVec 7 → List Sym
  | 0, _ => []
  | n + 1, v => v.setWidth 6 :: powValues primPoly n (timesAlpha primPoly v)

/-- `POW` (10_state.md R22). -/
def buildPow (primPoly : BitVec 7) : Vector Sym 63 :=
  Vector.ofFn fun e => (powValues primPoly 63 1#7).getD e.val 0#6

/-- `LOG`: the entry of a nonzero symbol is the index at which `POW` holds it (10_state.md R23).
Under parameters that are not legal some symbol has no index; such a table is no table of the
spec, and the entry's value then is of no account (log entry 11). -/
def buildLog (pow : Vector Sym 63) : Vector (Fin 63) 63 :=
  Vector.ofFn fun k =>
    ((List.finRange 63).find? fun e => pow[e] == BitVec.ofNat 6 (k.val + 1)).getD 0

/-- The product of the factors `[alpha_pow(j), 1]` for `j = 1, …, n` (10_state.md R26). -/
def generatorProduct (K : Constants) : Nat → Poly
  | 0 => [1#6]
  | n + 1 => pMul K (generatorProduct K n) [alphaPow K (n + 1), 1#6]

/-- `GEN`: the product of the 21 factors, scaled by `GEN_SCALE` (10_state.md R26). -/
def buildGen (K : Constants) (genScale : Sym) : Vector Sym 22 :=
  Vector.ofFn fun i => coef (pSmul K (generatorProduct K 21) genScale) i.val

/-- The tables initialisation establishes: `POW`, then `LOG`, then `GEN`, which is computed with
both (70_reset_and_hazards.md R270). -/
def Constants.build (p : Params) : Constants :=
  let pow := buildPow p.primPoly
  let log := buildLog pow
  { pow := pow, log := log,
    gen := buildGen { pow := pow, log := log, gen := Vector.replicate 22 0#6 } p.genScale }

/-- Legal parameters: `PRIM_POLY` has degree 6, the construction of `POW` ends at 1 with 63 pairwise
distinct entries (10_state.md R22), and `GEN_SCALE` is nonzero (R27). -/
def paramsLegal (p : Params) : Bool :=
  p.primPoly.getLsbD 6
    && alphaSteps p.primPoly 63 1#7 == 1#7
    && decide (powValues p.primPoly 63 1#7).Nodup
    && p.genScale != 0#6

/-- Initialisation ends: the three tables are established and `READY` becomes 1
(10_state.md R40; 70_reset_and_hazards.md R270, R271). -/
def initialise (s : State) : State :=
  { s with ready := true, const := Constants.build Config.params }

end Sys2Proof.Machine
end

