-- ==== Sys2Proof/Machine/Engine.lean ====
section
/-!
DEFINITION. The engine's life between reset and the next transaction: what each act of the host does
(60_exceptions.md R256; 70_reset_and_hazards.md R270 to R275), and how a command is presented.
-/

namespace Sys2Proof.Machine

/-- A command word is run on ports already sampled: decoded, then executed, or answered with
`ILLEGAL_COMMAND` and nothing else (30_encoding.md R74 to R76; 60_exceptions.md R246). -/
def runCommand (s : State) (w : Cmd) : Host.Outcome State Fault Refusal :=
  match decode w with
  | .ok i => exec i s
  | .error _ => deliver s (Response.failed .illegalCommand)

/-- A transaction: all input ports are sampled together and its one operation is run to completion
(10_state.md R31; 20_memory.md R55). -/
def transact (s : State) (r : Request) : Host.Outcome State Fault Refusal :=
  runCommand (samplePorts s r) r.cmd

/-- A step in which the host does nothing: initialisation ends if it was under way
(70_reset_and_hazards.md R270), else nothing changes (10_state.md R20). -/
def idleStep (s : State) : State := if s.ready then s else initialise s

/-- Reset is asserted while a transaction is in progress: no response is delivered for it
(70_reset_and_hazards.md R272). Its command was presented, which has a meaning only when `READY = 1`
(R273). -/
def abandon (s : State) (r : Request) : Host.Outcome State Fault Refusal :=
  if s.ready then .next (assertReset (samplePorts s r)) else .refused .commandBeforeReady

/-- What one act of the host does to the engine. -/
def respondTo (s : State) : HostInput → Host.Outcome State Fault Refusal
  | .idle => .next (idleStep s)
  | .transaction r => transact s r
  | .assertReset => .next (assertReset s)
  | .resetDuringTransaction r => abandon s r

/-- One step: the host's oldest act is taken; a host with no acts left does nothing. -/
def advance (s : State) : Host.Outcome State Fault Refusal :=
  match s.inputs with
  | [] => .next (idleStep s)
  | x :: rest => respondTo { s with inputs := rest } x

/-- The host presents a command word next, with the operand ports as they were last sampled. -/
def presentCommand (s : State) (w : Cmd) : State :=
  { s with inputs := .transaction { s.ports with cmd := w } :: s.inputs }

end Sys2Proof.Machine
end

