-- ==== Sys2Proof/Machine/Step.lean ====
section
/-!
DEFINITION. The step function and how the host's checks present an instruction to it. The engine
fetches nothing: the host presents one command word with its ports (10_state.md R36;
30_encoding.md R81).
-/

namespace Sys2Proof.Machine

/-- One step of the machine. -/
def step (s : State) : Host.Outcome State Fault Refusal := advance s

/-- `s` with the host presenting the word `w` next, with the operand ports unchanged, so that the
very next step runs it when `READY = 1`. The command is one 32-bit value, numbered as the table
numbers it (log entries 5, 14). -/
def State.withFetchWord (s : State) (_nbits w : Nat) : State :=
  presentCommand s (BitVec.ofNat 32 w)

end Sys2Proof.Machine
end

