-- ==== Sys2Proof/Safety.lean ====
section
/-!
DEFINITION. The terms the claims are stated in: when a state is one the engine can be in, when an
operation answers, and the spec's quantities (coefficients of a product, the value of a polynomial,
a codeword, the number of errors) written independently of how the machine computes them.
-/

namespace Sys2Proof.Safety

open Sys2Proof.Machine

/-- The tables are those initialisation builds from some legal parameters (10_state.md R22, R23,
R26; 00_scope.md R6). A claim with this premise holds under every legal parameter value. -/
def ConstantsLegal (K : Constants) : Prop := ∃ p, paramsLegal p = true ∧ K = Constants.build p

/-- A response has the form every response has: a vector result has 1 to 63 symbols (41_poly.md
R121), and on a status other than `OK` no port but `STATUS` and `FR = 0` has a value
(60_exceptions.md R251). -/
def responseOk (r : Response) : Bool :=
  r.vr.all portLengthOk && r.vq.all portLengthOk
    && (r.status == .ok
      || (r.sr.isNone && r.fr != some true && r.cr.isNone && r.vr.isNone && r.vq.isNone
        && r.rm.isNone))

/-- The invariant of the engine: while `READY = 1` the tables are legal (10_state.md R20, R40), and
the last response, if there is one, has the form of a response. -/
def Inv (s : State) : Prop :=
  (s.ready = true → ConstantsLegal s.const) ∧ ∀ r, s.resp = some r → responseOk r = true

/-- The operation runs to completion with the response `r`, and that response is all that changes:
`READY`, the tables, the input ports and the host's further acts are as before (10_state.md R20;
60_exceptions.md R250). -/
def Answers (i : Instr) (s : State) (r : Response) : Prop :=
  exec i s = .next { s with resp := some r }

/-- A step is safe if it is neither a fault nor a refusal. -/
def SafeOutcome (o : Host.Outcome State Fault Refusal) : Prop := ∃ t, o = .next t

/-- `VA[i]`. -/
def vaAt (s : State) (i : Nat) : Sym := coef s.ports.va.toList i

/-- `VB[i]`. -/
def vbAt (s : State) (i : Nat) : Sym := coef s.ports.vb.toList i

/-- `EM[i]`. -/
def emAt (s : State) (i : Nat) : Bool := s.ports.em.toList.getD i false

/-- `RM[i]` of a result mask. -/
def maskAt (m : Mask63) (i : Nat) : Bool := m.toList.getD i false

/-- The number of positions a mask marks. -/
def markedCount (m : Mask63) : Nat := ((List.range 63).filter (maskAt m)).length

/-- The symbol at position `i` of the masked word (43_decoder_stages.md R175). -/
def maskedAt (s : State) (i : Nat) : Sym := if emAt s i then 0#6 else vaAt s i

/-- `x^n` in the field. -/
def power (K : Constants) (x : Sym) : Nat → Sym
  | 0 => 1#6
  | n + 1 => gfMul K (power K x n) x

/-- The value of a sequence of coefficients at `x`: the XOR of `P[i] * x^i` (41_poly.md R127). -/
def polyValue (K : Constants) (p : List Sym) (x : Sym) : Sym :=
  xorSum (fun i => gfMul K (coef p i) (power K x i)) p.length

/-- The coefficient of `x^k` of a product: the XOR of `P[i] * Q[k-i]` (41_poly.md R125). -/
def productCoef (K : Constants) (p q : List Sym) (k : Nat) : Sym :=
  xorSum (fun i => gfMul K (coef p i) (coef q (k - i))) (k + 1)

/-- The formal derivative as 41_poly.md R128 gives it, coefficient by coefficient. -/
def derivative (p : List Sym) : List Sym :=
  (List.range p.length).map fun i => if i % 2 = 0 then coef p (i + 1) else 0#6

/-- The stop test of the Euclidean solver on a remainder and its locator (43_decoder_stages.md R179,
R180). -/
def EuclidStops (e0 : Nat) (r v : Poly) : Prop :=
  deg r ≤ (21 + e0 + 1) / 2 - 1 ∧ deg v ≤ (21 - e0) / 2

/-- One division of the Euclidean solver: `r2` is the remainder of `r0` by `r1`, and with the
quotient `q` of that division `v2 = v0 + v1 * q`, with no truncation (43_decoder_stages.md R180). -/
def EuclidDivides (K : Constants) (r0 r1 r2 v0 v1 v2 : Poly) : Prop :=
  ∃ q : Poly, Poly.canonical q = true ∧ Poly.canonical r2 = true ∧ Poly.canonical v2 = true ∧
    (∀ k, coef r0 k = productCoef K q r1 k ^^^ coef r2 k) ∧ (r2 = [0#6] ∨ deg r2 < deg r1) ∧
    ∀ k, coef v2 k = coef v0 k ^^^ productCoef K v1 q k

/-- The syndrome `S_j` of the masked word (43_decoder_stages.md R175, R176). -/
def maskedSyndrome (s : State) (j : Nat) : Sym :=
  xorSum (fun i => gfMul s.const (maskedAt s i) (alphaPow s.const (i * j))) 63

/-- A valid codeword: its 21 syndromes, the values at `α^1, …, α^21`, are all 0 (42_encoder.md
R162). -/
def IsCodeword (K : Constants) (c : Word63) : Prop :=
  ∀ j < 21, polyValue K c.toList (alphaPow K (j + 1)) = 0#6

/-- The number of substitution errors of the received word against `c`: positions not erased whose
symbol differs (00_scope.md section 6). -/
def errorCount (s : State) (c : Word63) : Nat :=
  ((List.range 63).filter fun i => !emAt s i && vaAt s i != coef c.toList i).length

/-- The polynomial is written to the first vector port. -/
def putA (s : State) (p : List Sym) : State :=
  { s with ports := { s.ports with la := BitVec.ofNat 6 p.length, va := padWord p } }

/-- The polynomial is written to the second vector port. -/
def putB (s : State) (p : List Sym) : State :=
  { s with ports := { s.ports with lb := BitVec.ofNat 6 p.length, vb := padWord p } }

/-- The words of the opcode table: match and mask of each row (30_encoding.md R80). -/
def tableRows : List (Cmd × Cmd) :=
  [ (0x10000000, 0xFFFFC0C0), (0x11000000, 0xFFFFC0C0), (0x12000000, 0xFFFFC0C0),
    (0x20000000, 0xFFFFFFFF), (0x21000000, 0xFFFFFFC0), (0x22000000, 0xFFFFFFFF),
    (0x23000000, 0xFFFFFFFF), (0x24000000, 0xFFFFFFC0), (0x25000000, 0xFFFFFFFF),
    (0x26000000, 0xFFFFFFC0), (0x27000000, 0xFFFFFFFF), (0x30000000, 0xFFFFFFFF),
    (0x31000000, 0xFFFFFFFF), (0x32000000, 0xFFFFFFFF), (0x33000000, 0xFFFFFFC0),
    (0x34000000, 0xFFFFFFFF), (0x35000000, 0xFFFFFFFF), (0x40000000, 0xFFFFFFFF),
    (0x41000000, 0xFFFFFFFF) ]

/-- The format of an operation (30_encoding.md R73). -/
def formatOf : Instr → Format
  | .gfAdd _ _ | .gfMul _ _ | .gfDiv _ _ => .ss
  | .pAdd | .pMul | .pDivmod | .rsModsynd | .rsForney => .pp
  | .pSmul _ | .pEval _ | .pTrunc _ | .rsEuclid _ => .ps
  | .pDeriv | .pIszero | .rsRoots => .p
  | .rsErasloc => .m
  | .rsSynd | .rsDec => .wm
  | .rsEnc => .w

/-- Two states agree on the ports a format reads: the length and the valid entries of a vector port
it lists, the mask if it lists it (30_encoding.md R72, R77). -/
def AgreeOn (f : Format) (s t : State) : Prop :=
  (f ≠ .ss → f ≠ .m →
    s.ports.la = t.ports.la ∧ ∀ i < s.ports.la.toNat, vaAt s i = vaAt t i) ∧
  (f = .pp → s.ports.lb = t.ports.lb ∧ ∀ i < s.ports.lb.toNat, vbAt s i = vbAt t i) ∧
  (f = .m ∨ f = .wm → s.ports.em = t.ports.em)

/-- The status codes an operation can return (60_exceptions.md R240, columns "code" and "raised
by"). -/
def allowedCodes : Instr → List (BitVec 8)
  | .gfAdd _ _ | .gfMul _ _ => [0]
  | .gfDiv _ _ => [0, 4]
  | .pAdd | .pSmul _ | .pEval _ | .pDeriv | .pTrunc _ | .pIszero => [0]
  | .pMul | .rsModsynd => [0, 8]
  | .pDivmod => [0, 5]
  | .rsSynd | .rsEuclid _ => [0, 7]
  | .rsErasloc => [0, 2]
  | .rsRoots => [0]
  | .rsForney => [0, 1]
  | .rsEnc => [0, 3]
  | .rsDec => [0, 1, 2, 7]

/-- Which of `SR, FR, CR, VR, VQ, RM` a response gives a value. -/
def portsWritten (r : Response) : List Bool :=
  [r.sr.isSome, r.fr.isSome, r.cr.isSome, r.vr.isSome, r.vq.isSome, r.rm.isSome]

/-- Which of `SR, FR, CR, VR, VQ, RM` an operation writes on `OK` (30_encoding.md R73, column
"results on OK"). -/
def portsOnOk : Instr → List Bool
  | .gfAdd _ _ | .gfMul _ _ | .gfDiv _ _ | .pEval _ => [true, false, false, false, false, false]
  | .pAdd | .pSmul _ | .pMul | .pDeriv | .pTrunc _ | .rsModsynd | .rsEnc =>
    [false, false, false, true, false, false]
  | .pDivmod | .rsEuclid _ => [false, false, false, true, true, false]
  | .pIszero => [false, true, false, false, false, false]
  | .rsSynd | .rsDec => [false, true, false, true, false, false]
  | .rsErasloc => [false, false, true, true, false, false]
  | .rsRoots => [false, false, true, false, false, true]
  | .rsForney => [false, false, true, true, false, true]

end Sys2Proof.Safety
end

