-- ==== Sys2Proof/Certificates/Slice0/Obligations.lean ====
section
/-!
DEFINITION. The statements put to the provers. Each docstring names the rule or the section of spec/
it formalises. Where a premise reads `ConstantsLegal s.const`, the tables are those of some legal
parameters; `Obligations.StepKeepsTheInvariant` says no step leaves the states where that holds.
-/

open Sys2Proof Sys2Proof.Machine Sys2Proof.Safety

/-! ### Encoding -/

/-- 30_encoding.md R70, R71, R73, R80: decoding the word of an operation gives the operation back. -/
def Obligations.DecodeOfEncodeIsTheOperation : Prop :=
  ∀ i : Instr, decode (encode i) = .ok i

/-- 30_encoding.md R74, R80: a legal word is the word of the operation it decodes to. -/
def Obligations.EncodeOfDecodeIsTheWord : Prop :=
  ∀ (w : Cmd) (i : Instr), decode w = .ok i → encode i = w

/-- 30_encoding.md R74, R75: a word is legal exactly if it matches a row of the table, and any other
word is answered with `ILLEGAL_COMMAND` and nothing else, the ports having been sampled. -/
def Obligations.IllegalWordsAreAnsweredSo : Prop :=
  (∀ w : Cmd, (∃ i, decode w = .ok i) ↔ ∃ row ∈ tableRows, w &&& row.2 = row.1) ∧
  ∀ (s : State) (r : Request), s.ready = true →
    (∀ row ∈ tableRows, r.cmd &&& row.2 ≠ row.1) →
    transact s r = .next { s with ports := r, resp := some { status := .illegalCommand } }

/-- 30_encoding.md R78, 95_test_vectors.md sections 3.1 and 3.6: a few words written out. -/
def Obligations.DecodedWordSamples : Prop :=
  decode 0x11002002#32 = .ok (.gfMul 2#6 32#6) ∧
  decode 0x10003F00#32 = .ok (.gfAdd 0#6 63#6) ∧
  decode 0x12000201#32 = .ok (.gfDiv 1#6 2#6) ∧
  decode 0x24000002#32 = .ok (.pEval 2#6) ∧
  decode 0x23000000#32 = .ok .pDivmod ∧
  decode 0x33000015#32 = .ok (.rsEuclid 21#6) ∧
  decode 0x35000000#32 = .ok .rsForney ∧
  decode 0x40000000#32 = .ok .rsEnc ∧
  decode 0x41000000#32 = .ok .rsDec ∧
  decode 0x42000000#32 = .error (.unassignedOpcode 0x42#8) ∧
  decode 0x10400000#32 = .error .reservedBitSet ∧
  decode 0x10000040#32 = .error .reservedBitSet ∧
  decode 0x20000001#32 = .error .unreadScalarSet ∧
  decode 0x33000100#32 = .error .unreadScalarSet

/-! ### The step, reset and the ready bit -/

/-- 10_state.md R31, 20_memory.md R55: a step that takes a transaction whose word decodes to `i` is
`exec i` on the sampled ports; and so is a step on a word placed for the host's checks. -/
def Obligations.StepRunsTheDecodedOperation : Prop :=
  (∀ (s : State) (r : Request) (rest : List HostInput) (i : Instr),
    s.inputs = .transaction r :: rest → decode r.cmd = .ok i →
      step s = exec i { s with inputs := rest, ports := r }) ∧
  ∀ (s : State) (n w : Nat) (i : Instr), decode (BitVec.ofNat 32 w) = .ok i →
    step (s.withFetchWord n w) =
      exec i { s with ports := { s.ports with cmd := BitVec.ofNat 32 w } }

/-- 10_state.md R40: `READY` is 0 from the assertion of reset until the tables are built, then 1
until the next reset, and a command presented while it is 0 has no meaning. That initialisation
ends in the first step in which the host does nothing is the model's choice (log entry 7). -/
def Obligations.ReadyFromInitialisationToReset : Prop :=
  ∀ s : State,
    (s.ready = false → ∀ i, exec i s = .refused .commandBeforeReady) ∧
    (s.ready = false → ∀ r rest, s.inputs = .transaction r :: rest →
      step s = .refused .commandBeforeReady) ∧
    (∀ rest, s.inputs = .assertReset :: rest → ∃ t, step s = .next t ∧ t.ready = false) ∧
    (s.ready = false → ∀ rest, s.inputs = [] ∨ s.inputs = .idle :: rest →
      ∃ t, step s = .next t ∧ t.ready = true ∧ t.const = Constants.build Config.params) ∧
    (s.ready = true → (∀ rest, s.inputs ≠ .assertReset :: rest) →
      (∀ r rest, s.inputs ≠ .resetDuringTransaction r :: rest) →
      ∀ t, step s = .next t → t.ready = true)

/-- 10_state.md section 6, 70_reset_and_hazards.md section 1: after reset `READY = 1`, the tables are
those R22, R23 and R26 build, and no response is there. That the host's acts are a list, empty then,
and that a step with none left answers the same state are the model's choice (log entry 5). That the
input ports hold zeros then is the model's choice (log entry 2) and is not stated. -/
def Obligations.ResetLeavesTheTablesBuilt : Prop :=
  State.reset.ready = true ∧ State.reset.const = Constants.build Config.params ∧
  State.reset.resp = none ∧ State.reset.inputs = [] ∧ step State.reset = .next State.reset

/-- 70_reset_and_hazards.md section 1: from any state, reset asserted and then one step of
initialisation leave the machine as it is right after reset. That initialisation takes one step is
the model's choice (log entry 7). -/
def Obligations.ResetEventReestablishesTheMachine : Prop :=
  ∀ (s : State) (rest : List HostInput), s.inputs = .assertReset :: .idle :: rest →
    ∃ t, step s = .next t ∧ t.ready = false ∧ t.resp = none ∧
      step t = .next { State.reset with inputs := rest }

/-- 70_reset_and_hazards.md R272: reset asserted while a transaction is in progress abandons it: no
response is delivered and initialisation starts. That command and reset are one act of the host is
the model's rendering (log entry 8). That the tables keep their contents while `READY = 0`, which
R270 calls not observable, is the model's choice (log entry 7). -/
def Obligations.ResetAbandonsTheTransaction : Prop :=
  ∀ (s : State) (r : Request) (rest : List HostInput), s.ready = true →
    s.inputs = .resetDuringTransaction r :: rest →
    ∃ t, step s = .next t ∧ t.resp = none ∧ t.ready = false ∧ t.const = s.const ∧ t.inputs = rest

/-- The invariant holds right after reset (10_state.md R41). -/
def Obligations.ResetMeetsTheInvariant : Prop := Inv State.reset

/-- 10_state.md R20, R40, 41_poly.md R121, 60_exceptions.md R251: from every state that meets the
invariant, every step that answers a next state meets it again. -/
def Obligations.StepKeepsTheInvariant : Prop :=
  ∀ s t : State, Inv s → step s = .next t → Inv t

/-- 60_exceptions.md R256, 70_reset_and_hazards.md R277, 93_implementation_defined.md Part 1: no
condition halts the engine. With legal tables and `READY = 1` every operation is answered on every
port content, and from a state that meets the invariant the only step without a next state is a
command presented while `READY = 0`. -/
def Obligations.EveryTransactionIsAnswered : Prop :=
  (∀ (s : State) (i : Instr), s.ready = true → ConstantsLegal s.const → SafeOutcome (exec i s)) ∧
  ∀ s : State, Inv s →
    SafeOutcome (step s) ∨ (s.ready = false ∧ step s = .refused .commandBeforeReady)

/-! ### What every operation keeps and writes -/

/-- 10_state.md R20, 60_exceptions.md R250, R253: an operation that answers changes the output ports
alone; a transaction changes the ports alone and uses up the host's act. -/
def Obligations.OperationsChangeOnlyThePorts : Prop :=
  (∀ (i : Instr) (s t : State), exec i s = .next t →
    t.ready = s.ready ∧ t.const = s.const ∧ t.ports = s.ports ∧ t.inputs = s.inputs ∧
      ∃ r, t.resp = some r) ∧
  ∀ (s t : State) (r : Request) (rest : List HostInput),
    s.inputs = .transaction r :: rest → step s = .next t →
    t.ready = s.ready ∧ t.const = s.const ∧ t.ports = r ∧ t.inputs = rest ∧
      ∃ q, t.resp = some q

/-- 60_exceptions.md R251: on a status other than `OK`, `STATUS` is defined, for `RS.DEC` `FR = 0` as
well, and no other output port has a value. -/
def Obligations.FailedResponsesDefineTheStatusAlone : Prop :=
  ∀ (i : Instr) (s t : State) (r : Response), exec i s = .next t → t.resp = some r →
    r.status ≠ .ok →
    r = { status := r.status, fr := if i = .rsDec then some false else none }

/-- 30_encoding.md R73, R77: on `OK` an operation writes exactly the output ports its row lists. -/
def Obligations.OkResponsesWriteTheListedPorts : Prop :=
  ∀ (i : Instr) (s t : State) (r : Response), exec i s = .next t → t.resp = some r →
    r.status = .ok → portsWritten r = portsOnOk i

/-- 60_exceptions.md R240, with 40_field.md R106 and 44_decoder_top.md R226: the codes a response can
carry, operation by operation, and 6 for an illegal word. -/
def Obligations.StatusCodesByOperation : Prop :=
  ∀ (s t : State) (r : Request), ConstantsLegal s.const → transact s r = .next t →
    ∃ q, t.resp = some q ∧
      (∀ i, decode r.cmd = .ok i → statusPort q ∈ allowedCodes i) ∧
      ∀ e, decode r.cmd = .error e → statusPort q = 6#8

/-- 20_memory.md R58: a response depends on the constants and on the valid entries of the ports the
operation names, on nothing else. -/
def Obligations.ResponsesDependOnTheNamedPorts : Prop :=
  ∀ (i : Instr) (s t : State), s.ready = t.ready → s.const = t.const →
    AgreeOn (formatOf i) s t → ∀ r, Answers i s r → Answers i t r

/-- 44_decoder_top.md, independence from erased symbols: what a host presents at an erased position
has no effect on `RS.SYND` and `RS.DEC`. -/
def Obligations.ErasedSymbolsAreIgnored : Prop :=
  ∀ (i : Instr) (s : State) (v : Word63) (r : Response), i = .rsSynd ∨ i = .rsDec →
    (∀ j < 63, emAt s j = false → vaAt s j = coef v.toList j) →
    Answers i s r → Answers i { s with ports := { s.ports with va := v } } r

/-- 20_memory.md section 4: after any sequence of transactions the next one is answered exactly as if
it were the first, and the engine is as it was. -/
def Obligations.EarlierTransactionsDoNotMatter : Prop :=
  ∀ (s : State) (rs : List Request) (r : Request), s.ready = true → ConstantsLegal s.const →
    s.inputs = rs.map HostInput.transaction ++ [.transaction r] →
    ∃ t u : State, Host.Core.run core (rs.length + 1) s = .next t ∧
      step { s with inputs := [.transaction r] } = .next u ∧
      t.resp = u.resp ∧ t.ready = true ∧ t.const = s.const

/-! ### The tables and the field -/

/-- 10_state.md section 2, the table invariants: `POW` and `LOG` are inverse to each other, `POW[0]`
is 1, and multiplication distributes over addition. -/
def Obligations.TablesAreThoseOfAField : Prop :=
  ∀ K : Constants, ConstantsLegal K →
    (∀ (x : Sym) (h : x ≠ 0#6), powAt K (logOf K x h) = x) ∧
    (∀ e : Fin 63, ∃ h : powAt K e ≠ 0#6, logOf K (powAt K e) h = e) ∧
    powAt K 0 = 1#6 ∧
    ∀ a b c : Sym, gfMul K a (b ^^^ c) = gfMul K a b ^^^ gfMul K a c

/-- 00_scope.md section 4: the legal parameters are the six primitive masks with a nonzero scalar. -/
def Obligations.LegalParametersAreTheSixMasks : Prop :=
  ∀ p : Params, paramsLegal p = true ↔
    p.primPoly ∈ [0x43#7, 0x5B#7, 0x61#7, 0x67#7, 0x6D#7, 0x73#7] ∧ p.genScale ≠ 0#6

/-- 10_state.md section 2, the generator: it has the leading coefficient `GEN_SCALE` at degree 21 and
vanishes at `α^1, …, α^21`. -/
def Obligations.GeneratorVanishesAtTheFirstPowers : Prop :=
  ∀ p : Params, paramsLegal p = true →
    coef (Constants.build p).gen.toList 21 = p.genScale ∧
    ∀ j < 21, polyValue (Constants.build p) (Constants.build p).gen.toList
      (alphaPow (Constants.build p) (j + 1)) = 0#6

/-- 40_field.md R100: `GF.ADD` is the XOR of its scalars, always `OK`; its word is `0x10` with the
scalars at their places. -/
def Obligations.GfAddIsXor : Prop :=
  ∀ (a b : Sym) (s : State), s.ready = true →
    Answers (.gfAdd a b) s { status := .ok, sr := some (a ^^^ b) } ∧
    decode (cmdWord 0x10#8 a b) = .ok (.gfAdd a b)

/-- 40_field.md R101: `GF.MUL` is 0 if a factor is 0 and `POW[(LOG[a] + LOG[b]) mod 63]` otherwise;
1 is neutral, there are no zero divisors, and it is commutative. -/
def Obligations.GfMulAddsLogarithms : Prop :=
  ∀ s : State, s.ready = true →
    (∀ a b : Sym, a = 0#6 ∨ b = 0#6 →
      Answers (.gfMul a b) s { status := .ok, sr := some 0#6 }) ∧
    (∀ (a b : Sym) (ha : a ≠ 0#6) (hb : b ≠ 0#6),
      Answers (.gfMul a b) s
        { status := .ok,
          sr := some (s.const.pow[((logOf s.const a ha).val + (logOf s.const b hb).val) % 63]'
            (Nat.mod_lt _ (by decide))) }) ∧
    (∀ a b : Sym, decode (cmdWord 0x11#8 a b) = .ok (.gfMul a b)) ∧
    (ConstantsLegal s.const → ∀ a b : Sym,
      gfMul s.const a b = gfMul s.const b a ∧ gfMul s.const a 1#6 = a ∧
      (a ≠ 0#6 → b ≠ 0#6 → gfMul s.const a b ≠ 0#6))

/-- 40_field.md R102: `GF.DIV` raises `DIVISION_BY_ZERO` if the divisor is 0, whatever the dividend;
else it is 0 for the dividend 0 and `POW[(LOG[a] - LOG[b] + 63) mod 63]` otherwise; `a / a = 1` and
`a / 1 = a`. -/
def Obligations.GfDivSubtractsLogarithms : Prop :=
  ∀ s : State, s.ready = true →
    (∀ a : Sym, Answers (.gfDiv a 0#6) s { status := .divisionByZero }) ∧
    (∀ b : Sym, b ≠ 0#6 → Answers (.gfDiv 0#6 b) s { status := .ok, sr := some 0#6 }) ∧
    (∀ (a b : Sym) (ha : a ≠ 0#6) (hb : b ≠ 0#6),
      Answers (.gfDiv a b) s
        { status := .ok,
          sr := some (s.const.pow[((logOf s.const a ha).val + 63 - (logOf s.const b hb).val) % 63]'
            (Nat.mod_lt _ (by decide))) }) ∧
    (∀ a b : Sym, decode (cmdWord 0x12#8 a b) = .ok (.gfDiv a b)) ∧
    (ConstantsLegal s.const → ∀ a : Sym, a ≠ 0#6 →
      gfDiv s.const a a = .ok 1#6 ∧ gfDiv s.const a 1#6 = .ok a)

/-- 40_field.md, field laws: `(a / b) * b = a`, `a + a = 0` and `a * 1 = a`, and multiplication is
associative. -/
def Obligations.FieldLawsHold : Prop :=
  ∀ K : Constants, ConstantsLegal K →
    (∀ a b : Sym, b ≠ 0#6 → ∃ q, gfDiv K a b = .ok q ∧ gfMul K q b = a) ∧
    (∀ a : Sym, gfAdd a a = 0#6 ∧ gfMul K a 1#6 = a) ∧
    ∀ a b c : Sym, gfMul K (gfMul K a b) c = gfMul K a (gfMul K b c)

/-- 40_field.md, `alpha_pow`, and 20_memory.md section 2: exponents add; the point tested for
position `i` is the inverse of `α^i`; and the 63 points are the 63 nonzero symbols, each once. -/
def Obligations.PowersOfAlphaMultiply : Prop :=
  ∀ K : Constants, ConstantsLegal K →
    (∀ m n : Nat, gfMul K (alphaPow K m) (alphaPow K n) = alphaPow K (m + n)) ∧
    (∀ i < 63, gfMul K (alphaPow K i) (locatorPoint K i) = 1#6) ∧
    (∀ i < 63, ∀ j < 63, locatorPoint K i = locatorPoint K j → i = j) ∧
    ∀ x : Sym, x ≠ 0#6 → ∃ i < 63, locatorPoint K i = x

/-! ### Polynomials

Each statement about an operation of these families opens with its word (30_encoding.md R73). -/

/-- 10_state.md R33: `norm` keeps the coefficients, its result is canonical and the only canonical
polynomial with them, it is idempotent, and `norm([]) = [0]`; a canonical polynomial put on a port
occupies the indices up to its degree, and is read from there again. -/
def Obligations.NormIsTheCanonicalForm : Prop :=
  (∀ s : List Sym, Poly.canonical (norm s) = true ∧ (∀ i, coef (norm s) i = coef s i) ∧
    (∀ p : Poly, Poly.canonical p = true → (∀ i, coef p i = coef s i) → p = norm s) ∧
    norm (norm s) = norm s) ∧
  norm [] = [0#6] ∧
  ∀ (s : State) (p : Poly), Poly.canonical p = true → p.length ≤ 63 →
    (putA s p).ports.la.toNat = deg p + 1 ∧ (∀ i ≤ deg p, vaAt (putA s p) i = coef p i) ∧
    polyA (putA s p) = p

/-- 41_poly.md R120: a polynomial operand is the canonical form of the valid entries of its port;
`LA = 0` reads as the zero polynomial. -/
def Obligations.OperandsAreNormalisedOnEntry : Prop :=
  ∀ s : State,
    Poly.canonical (polyA s) = true ∧ Poly.canonical (polyB s) = true ∧
    (∀ i, coef (polyA s) i = if i < s.ports.la.toNat then vaAt s i else 0#6) ∧
    (∀ i, coef (polyB s) i = if i < s.ports.lb.toNat then vbAt s i else 0#6) ∧
    (s.ports.la = 0#6 → polyA s = [0#6]) ∧ (s.ports.lb = 0#6 → polyB s = [0#6])

/-- 41_poly.md R123: the canonical polynomial of the XORs of the coefficients, always `OK`. -/
def Obligations.PAddAddsCoefficients : Prop :=
  decode 0x20000000#32 = .ok .pAdd ∧
  ∀ s : State, s.ready = true →
    ∃ p : Poly, Answers .pAdd s { status := .ok, vr := some p } ∧ Poly.canonical p = true ∧
      ∀ i, coef p i = coef (polyA s) i ^^^ coef (polyB s) i

/-- 41_poly.md R124: the canonical polynomial of the coefficients' products with the scalar, always
`OK`; the scalar 0 gives `[0]`, 1 the operand, and a nonzero one keeps the degree. -/
def Obligations.PSmulScalesCoefficients : Prop :=
  (∀ a : Sym, decode (cmdWord 0x21#8 a 0#6) = .ok (.pSmul a)) ∧
  ∀ (s : State) (c : Sym), s.ready = true →
    ∃ p : Poly, Answers (.pSmul c) s { status := .ok, vr := some p } ∧ Poly.canonical p = true ∧
      (∀ i, coef p i = gfMul s.const (coef (polyA s) i) c) ∧
      (c = 0#6 → p = [0#6]) ∧
      (ConstantsLegal s.const → c = 1#6 → p = polyA s) ∧
      (ConstantsLegal s.const → c ≠ 0#6 → deg p = deg (polyA s))

/-- 41_poly.md R125: `RESULT_OVERFLOW` exactly when the degrees add up to more than 62, else the full
convolution; a zero factor gives `[0]`. -/
def Obligations.PMulConvolves : Prop :=
  decode 0x22000000#32 = .ok .pMul ∧
  ∀ s : State, s.ready = true →
    (deg (polyA s) + deg (polyB s) > 62 → Answers .pMul s { status := .resultOverflow }) ∧
    (deg (polyA s) + deg (polyB s) ≤ 62 →
      ∃ p : Poly, Answers .pMul s { status := .ok, vr := some p } ∧ Poly.canonical p = true ∧
        (∀ k, coef p k = productCoef s.const (polyA s) (polyB s) k) ∧
        (polyA s = [0#6] ∨ polyB s = [0#6] → p = [0#6]))

/-- 41_poly.md R126: the zero divisor is refused whatever the dividend; otherwise the quotient and
the remainder of the dividend, the remainder being zero or of lower degree than the divisor. -/
def Obligations.PDivmodDivides : Prop :=
  decode 0x23000000#32 = .ok .pDivmod ∧
  ∀ s : State, s.ready = true →
    (polyB s = [0#6] → Answers .pDivmod s { status := .divisionByZeroPolynomial }) ∧
    (ConstantsLegal s.const → polyB s ≠ [0#6] →
      ∃ q r : Poly, Answers .pDivmod s { status := .ok, vq := some q, vr := some r } ∧
        Poly.canonical q = true ∧ Poly.canonical r = true ∧
        (∀ k, coef (polyA s) k = productCoef s.const q (polyB s) k ^^^ coef r k) ∧
        (r = [0#6] ∨ deg r < deg (polyB s)) ∧
        (deg (polyA s) < deg (polyB s) → q = [0#6] ∧ r = polyA s))

/-- 41_poly.md, the division law: the quotient and the remainder are unique. -/
def Obligations.QuotientAndRemainderAreUnique : Prop :=
  ∀ (K : Constants) (b q r q' r' : Poly), ConstantsLegal K →
    Poly.canonical b = true → Poly.canonical q = true → Poly.canonical r = true →
    Poly.canonical q' = true → Poly.canonical r' = true → b ≠ [0#6] →
    (∀ k, productCoef K q b k ^^^ coef r k = productCoef K q' b k ^^^ coef r' k) →
    (r = [0#6] ∨ deg r < deg b) → (r' = [0#6] ∨ deg r' < deg b) → q = q' ∧ r = r'

/-- 41_poly.md R127: the XOR of `P[i] * x^i`; at 0 the constant term, at 1 the XOR of the
coefficients. -/
def Obligations.PEvalIsTheValue : Prop :=
  (∀ a : Sym, decode (cmdWord 0x24#8 a 0#6) = .ok (.pEval a)) ∧
  ∀ (s : State) (x : Sym), s.ready = true → ConstantsLegal s.const →
    Answers (.pEval x) s { status := .ok, sr := some (polyValue s.const (polyA s) x) } ∧
    (x = 0#6 → polyValue s.const (polyA s) x = coef (polyA s) 0) ∧
    (x = 1#6 → polyValue s.const (polyA s) x = xorSum (coef (polyA s)) (polyA s).length)

/-- 41_poly.md R128: the odd-indexed terms, shifted down by one. -/
def Obligations.PDerivKeepsOddTerms : Prop :=
  decode 0x25000000#32 = .ok .pDeriv ∧
  ∀ s : State, s.ready = true →
    ∃ p : Poly, Answers .pDeriv s { status := .ok, vr := some p } ∧ Poly.canonical p = true ∧
      (∀ i, coef p i = if i % 2 = 0 then coef (polyA s) (i + 1) else 0#6) ∧
      (deg (polyA s) = 0 → p = [0#6])

/-- 41_poly.md R129: the terms of degree at most `m`, that of degree exactly `m` kept. -/
def Obligations.PTruncKeepsLowTerms : Prop :=
  (∀ a : Sym, decode (cmdWord 0x26#8 a 0#6) = .ok (.pTrunc a)) ∧
  ∀ (s : State) (m : BitVec 6), s.ready = true →
    ∃ p : Poly, Answers (.pTrunc m) s { status := .ok, vr := some p } ∧ Poly.canonical p = true ∧
      (∀ i, coef p i = if i ≤ m.toNat then coef (polyA s) i else 0#6) ∧
      (deg (polyA s) ≤ m.toNat → p = polyA s)

/-- 41_poly.md R130: `FR = 1` exactly for the zero polynomial, that is when every valid entry of the
port is 0, a port with no valid entry included. -/
def Obligations.PIszeroTestsForZero : Prop :=
  decode 0x27000000#32 = .ok .pIszero ∧
  ∀ s : State, s.ready = true →
    ∃ f : Bool, Answers .pIszero s { status := .ok, fr := some f } ∧
      (f = true ↔ polyA s = [0#6]) ∧ (f = true ↔ ∀ i < s.ports.la.toNat, vaAt s i = 0#6)

/-- 41_poly.md section 3, degrees: the degrees of a product of nonzero polynomials add; a sum has at
most the greater degree, and that degree when the two differ. -/
def Obligations.DegreesOfProductsAndSums : Prop :=
  ∀ (K : Constants) (p q : Poly), ConstantsLegal K → Poly.canonical p = true →
    Poly.canonical q = true →
    (p ≠ [0#6] → q ≠ [0#6] →
      deg (pMul K p q) = deg p + deg q ∧ lead (pMul K p q) = gfMul K (lead p) (lead q)) ∧
    deg (pAdd p q) ≤ max (deg p) (deg q) ∧
    (deg p ≠ deg q → deg (pAdd p q) = max (deg p) (deg q))

/-! ### The encoder -/

/-- 42_encoder.md R161: a wrong length is refused; else the codeword has 63 symbols, each the XOR of
the products of message symbols and generator coefficients whose indices add up to its own. -/
def Obligations.RsEncMultipliesByTheGenerator : Prop :=
  decode 0x40000000#32 = .ok .rsEnc ∧
  ∀ s : State, s.ready = true →
    (s.ports.la ≠ 42#6 → Answers .rsEnc s { status := .invalidMessageLength }) ∧
    (s.ports.la = 42#6 →
      ∃ c : List Sym, Answers .rsEnc s { status := .ok, vr := some c } ∧ c.length = 63 ∧
        ∀ i < 63, coef c i =
          xorSum (fun k => if k ≤ i ∧ i ≤ k + 21 then
            gfMul s.const (vaAt s k) (coef s.const.gen.toList (i - k)) else 0#6) 42)

/-- 42_encoder.md, valid codewords: every output of `RS.ENC` has 21 zero syndromes. -/
def Obligations.EncodedWordsAreCodewords : Prop :=
  ∀ s : State, s.ready = true → ConstantsLegal s.const → s.ports.la = 42#6 →
    ∃ c : Word63, Answers .rsEnc s { status := .ok, vr := some c.toList } ∧ IsCodeword s.const c

/-- 42_encoder.md, recovering the message: dividing an encoded word by the generator gives the
message polynomial, remainder zero. -/
def Obligations.DivisionByTheGeneratorRecoversTheMessage : Prop :=
  ∀ (s : State) (c : List Sym), s.ready = true → ConstantsLegal s.const → s.ports.la = 42#6 →
    Answers .rsEnc s { status := .ok, vr := some c } →
    Answers .pDivmod (putB (putA s c) s.const.gen.toList)
      { status := .ok, vq := some (norm (s.ports.va.toList.take 42)), vr := some [0#6] }

/-! ### The decoder's stages -/

/-- 43_decoder_stages.md R175, R176: a wrong length is refused; else the 21 syndromes of the masked
word, which are its values at `α^1, …, α^21`, and the flag that all are zero. -/
def Obligations.RsSyndComputesTheSyndromes : Prop :=
  decode 0x30000000#32 = .ok .rsSynd ∧
  ∀ s : State, s.ready = true →
    (s.ports.la ≠ 63#6 → Answers .rsSynd s { status := .badOperand }) ∧
    (s.ports.la = 63#6 →
      ∃ (p : Poly) (f : Bool),
        Answers .rsSynd s { status := .ok, vr := some p, fr := some f } ∧
        Poly.canonical p = true ∧
        (∀ k < 21, coef p k = maskedSyndrome s (k + 1)) ∧ (∀ k ≥ 21, coef p k = 0#6) ∧
        (f = true ↔ ∀ k < 21, maskedSyndrome s (k + 1) = 0#6) ∧
        (ConstantsLegal s.const → ∀ k < 21, coef p k =
          polyValue s.const ((List.range 63).map (maskedAt s)) (alphaPow s.const (k + 1))))

/-- 43_decoder_stages.md R177: more than 21 erasures are refused; else the erasure locator has the
number of erasures as its degree, constant term 1, and vanishes at `α^(-i)` exactly for the erased
positions `i`. That its degree is the number of erasures is an inference the spec marks as its own
(`[derived: from 41_poly.md rule R132 (a)]`). -/
def Obligations.RsEraslocLocatesTheErasures : Prop :=
  decode 0x31000000#32 = .ok .rsErasloc ∧
  ∀ s : State, s.ready = true →
    (markedCount s.ports.em > 21 →
      Answers .rsErasloc s { status := .erasureCapacityExceeded }) ∧
    (ConstantsLegal s.const → markedCount s.ports.em ≤ 21 →
      ∃ g : Poly,
        Answers .rsErasloc s
          { status := .ok, vr := some g, cr := some (BitVec.ofNat 6 (markedCount s.ports.em)) } ∧
        Poly.canonical g = true ∧ deg g = markedCount s.ports.em ∧ coef g 0 = 1#6 ∧
        ∀ i < 63, polyValue s.const g (locatorPoint s.const i) = 0#6 ↔ emAt s i = true)

/-- 43_decoder_stages.md R178: the product modulo `x^21`, or `RESULT_OVERFLOW`. -/
def Obligations.RsModsyndTruncatesTheProduct : Prop :=
  decode 0x32000000#32 = .ok .rsModsynd ∧
  ∀ s : State, s.ready = true →
    (deg (polyA s) + deg (polyB s) > 62 → Answers .rsModsynd s { status := .resultOverflow }) ∧
    (deg (polyA s) + deg (polyB s) ≤ 62 →
      ∃ t : Poly, Answers .rsModsynd s { status := .ok, vr := some t } ∧
        Poly.canonical t = true ∧
        (∀ k, coef t k =
          if k ≤ 20 then productCoef s.const (polyA s) (polyB s) k else 0#6) ∧
        (polyB s = [0#6] → t = [0#6]))

/-- 43_decoder_stages.md section 3: operands out of range are refused; else the solver stops within
its bounds with a locator that is not zero and an evaluator that satisfy the key equation modulo
`x^21`; where the seed already passes the stop test, they are 1 and `T`. -/
def Obligations.RsEuclidSolvesTheKeyEquation : Prop :=
  (∀ a : Sym, decode (cmdWord 0x33#8 a 0#6) = .ok (.rsEuclid a)) ∧
  ∀ (s : State) (e0 : BitVec 6), s.ready = true →
    (e0.toNat > 21 ∨ deg (polyA s) > 20 → Answers (.rsEuclid e0) s { status := .badOperand }) ∧
    (ConstantsLegal s.const → e0.toNat ≤ 21 → deg (polyA s) ≤ 20 →
      ∃ v r : Poly, Answers (.rsEuclid e0) s { status := .ok, vq := some v, vr := some r } ∧
        Poly.canonical v = true ∧ Poly.canonical r = true ∧ v ≠ [0#6] ∧
        deg v ≤ (21 - e0.toNat) / 2 ∧ deg r ≤ (21 + e0.toNat + 1) / 2 - 1 ∧
        (∀ k ≤ 20, productCoef s.const v (polyA s) k = coef r k) ∧
        (deg (polyA s) ≤ (21 + e0.toNat + 1) / 2 - 1 → v = [1#6] ∧ r = polyA s))

/-- 43_decoder_stages.md R182: position `i` is located exactly if the locator vanishes at `α^(-i)`
and its derivative does not; the count is the number of located positions, at most the locator's
degree unless the locator is zero. -/
def Obligations.RsRootsFindsTheSimpleRoots : Prop :=
  decode 0x34000000#32 = .ok .rsRoots ∧
  ∀ s : State, s.ready = true → ConstantsLegal s.const →
    ∃ m : Mask63,
      Answers .rsRoots s
        { status := .ok, rm := some m, cr := some (BitVec.ofNat 6 (markedCount m)) } ∧
      (∀ i < 63, maskAt m i = true ↔
        polyValue s.const (polyA s) (locatorPoint s.const i) = 0#6 ∧
        polyValue s.const (derivative (polyA s)) (locatorPoint s.const i) ≠ 0#6) ∧
      (polyA s ≠ [0#6] → markedCount m ≤ deg (polyA s))

/-- 43_decoder_stages.md R183: `DECODE_FAILURE` if the locator's constant term is 0 or the evaluator's
degree is not below the locator's; else the 63 magnitudes, each the quotient of the evaluator's and
the derivative's values at a located position and 0 elsewhere. -/
def Obligations.RsForneyComputesTheMagnitudes : Prop :=
  decode 0x35000000#32 = .ok .rsForney ∧
  ∀ s : State, s.ready = true → ConstantsLegal s.const →
    (coef (polyA s) 0 = 0#6 ∨ deg (polyB s) ≥ deg (polyA s) →
      Answers .rsForney s { status := .decodeFailure }) ∧
    (coef (polyA s) 0 ≠ 0#6 → deg (polyB s) < deg (polyA s) →
      ∃ (e : List Sym) (m : Mask63),
        Answers .rsForney s
          { status := .ok, vr := some e, rm := some m,
            cr := some (BitVec.ofNat 6 (markedCount m)) } ∧
        e.length = 63 ∧
        ∀ i < 63,
          (maskAt m i = true ↔
            polyValue s.const (polyA s) (locatorPoint s.const i) = 0#6 ∧
            polyValue s.const (derivative (polyA s)) (locatorPoint s.const i) ≠ 0#6) ∧
          (maskAt m i = true →
            gfMul s.const (coef e i)
              (polyValue s.const (derivative (polyA s)) (locatorPoint s.const i)) =
            polyValue s.const (polyB s) (locatorPoint s.const i)) ∧
          (maskAt m i = false → coef e i = 0#6))

/-! ### The decoder -/

/-- 44_decoder_top.md R220: a wrong length is refused with `FR = 0`; `FR = 1` exactly when `STATUS =
OK`; `VR` has a value exactly then, of 63 symbols, and no other port is written. -/
def Obligations.RsDecResponseForm : Prop :=
  decode 0x41000000#32 = .ok .rsDec ∧
  ∀ s : State, s.ready = true →
    (s.ports.la ≠ 63#6 → Answers .rsDec s { status := .badOperand, fr := some false }) ∧
    ∀ t, exec .rsDec s = .next t →
      ∃ r, t.resp = some r ∧ r.fr = some (r.status == .ok) ∧
        (r.status = .ok → ∃ c, r.vr = some c ∧ c.length = 63) ∧
        (r.status ≠ .ok → r.vr = none) ∧
        r.sr = none ∧ r.cr = none ∧ r.vq = none ∧ r.rm = none

/-- 44_decoder_top.md, the fast path: a masked word with 21 zero syndromes is returned as it is,
whatever the mask, more than 21 erasures included. -/
def Obligations.RsDecFastPath : Prop :=
  ∀ s : State, s.ready = true → s.ports.la = 63#6 →
    (∀ j < 21, maskedSyndrome s (j + 1) = 0#6) →
    Answers .rsDec s
      { status := .ok, fr := some true, vr := some ((List.range 63).map (maskedAt s)) }

/-- 44_decoder_top.md R223: if the syndromes are not all zero and more than 21 positions are erased,
`RS.DEC` ends with `ERASURE_CAPACITY_EXCEEDED` and `FR = 0`. -/
def Obligations.RsDecCapacityExceeded : Prop :=
  ∀ s : State, s.ready = true → s.ports.la = 63#6 →
    (∃ j < 21, maskedSyndrome s (j + 1) ≠ 0#6) → markedCount s.ports.em > 21 →
    Answers .rsDec s { status := .erasureCapacityExceeded, fr := some false }

/-- 44_decoder_top.md, semantics: `RS.DEC` is the composition of the stage operations. If the host
runs the stages one after another, each on the results of those before, then `RS.DEC` accepts with
the masked word corrected exactly if the count of located roots is the locator's degree, and fails
if `RS.FORNEY` does. -/
def Obligations.RsDecIsTheStagedDecode : Prop :=
  ∀ (s : State) (synd g t v r l : Poly) (n : BitVec 6), s.ready = true → s.ports.la = 63#6 →
    Answers .rsSynd s { status := .ok, vr := some synd, fr := some false } →
    Answers .rsErasloc s { status := .ok, vr := some g, cr := some n } →
    Answers .rsModsynd (putB (putA s g) synd) { status := .ok, vr := some t } →
    Answers (.rsEuclid n) (putA s t) { status := .ok, vq := some v, vr := some r } →
    Answers .pMul (putB (putA s v) g) { status := .ok, vr := some l } →
    (∀ (e : List Sym) (m : Mask63) (k : BitVec 6),
      Answers .rsForney (putB (putA s l) r)
        { status := .ok, vr := some e, rm := some m, cr := some k } →
      Answers .rsDec s
        (if k.toNat = deg l then
          { status := .ok, fr := some true,
            vr := some ((List.range 63).map fun i => maskedAt s i ^^^ coef e i) }
        else { status := .decodeFailure, fr := some false })) ∧
    (Answers .rsForney (putB (putA s l) r) { status := .decodeFailure } →
      Answers .rsDec s { status := .decodeFailure, fr := some false })

/-- 44_decoder_top.md, round trip: what `RS.ENC` answers, `RS.DEC` with no erasures answers
unchanged. -/
def Obligations.DecodingAnEncodedMessageReturnsIt : Prop :=
  ∀ s : State, s.ready = true → ConstantsLegal s.const → s.ports.la = 42#6 →
    ∃ c : Word63, Answers .rsEnc s { status := .ok, vr := some c.toList } ∧
      Answers .rsDec
        { s with ports := { s.ports with la := 63#6, va := c, em := Vector.replicate 63 false } }
        { status := .ok, fr := some true, vr := some c.toList }

/-- 44_decoder_top.md R228: the round trip; and every word within the bound `2 f + e0 <= 21` of a
valid codeword, whatever is presented at the erased positions, decodes to exactly that codeword,
of which zero errors, one error and up to 21 erasures are cases. -/
def Obligations.CorrectionWithinTheBound : Prop :=
  (∀ s : State, s.ready = true → ConstantsLegal s.const → s.ports.la = 42#6 →
    ∃ c : Word63, Answers .rsEnc s { status := .ok, vr := some c.toList } ∧
      IsCodeword s.const c ∧
      Answers .rsDec
        { s with ports := { s.ports with la := 63#6, va := c, em := Vector.replicate 63 false } }
        { status := .ok, fr := some true, vr := some c.toList }) ∧
  ∀ (s : State) (c : Word63), s.ready = true → ConstantsLegal s.const → s.ports.la = 63#6 →
    IsCodeword s.const c → 2 * errorCount s c + markedCount s.ports.em ≤ 21 →
    Answers .rsDec s { status := .ok, fr := some true, vr := some c.toList }

/-- 44_decoder_top.md, what success means: whenever `RS.DEC` answers `FR = 1`, the word is a valid
codeword and differs from the masked word in at most 21 positions (on the fast path in none). The
spec gives this from general knowledge. -/
def Obligations.SuccessfulDecodesAreCodewords : Prop :=
  ∀ (s t : State) (r : Response), ConstantsLegal s.const → exec .rsDec s = .next t →
    t.resp = some r → r.fr = some true →
    ∃ c : Word63, r.vr = some c.toList ∧ IsCodeword s.const c ∧
      ((List.range 63).filter fun i => maskedAt s i != coef c.toList i).length ≤ 21

/-- 43_decoder_stages.md R180: operands out of range are refused; else `RS.EUCLID` answers the
locator and the evaluator of the first pair that passes the stop test, in the sequences that start
from `x^21, T` and `0, 1` and go on by division. The pair is answered as computed, not scaled. -/
def Obligations.RsEuclidFollowsTheRecurrences : Prop :=
  (∀ a : Sym, decode (cmdWord 0x33#8 a 0#6) = .ok (.rsEuclid a)) ∧
  ∀ (s : State) (e0 : BitVec 6), s.ready = true →
    (e0.toNat > 21 ∨ deg (polyA s) > 20 → Answers (.rsEuclid e0) s { status := .badOperand }) ∧
    (ConstantsLegal s.const → e0.toNat ≤ 21 → deg (polyA s) ≤ 20 →
      ∃ (n : Nat) (r v : Nat → Poly),
        r 0 = List.replicate 21 0#6 ++ [1#6] ∧ r 1 = polyA s ∧ v 0 = [0#6] ∧ v 1 = [1#6] ∧
        (∀ i < n, ¬ EuclidStops e0.toNat (r (i + 1)) (v (i + 1)) ∧
          EuclidDivides s.const (r i) (r (i + 1)) (r (i + 2)) (v i) (v (i + 1)) (v (i + 2))) ∧
        EuclidStops e0.toNat (r (n + 1)) (v (n + 1)) ∧
        Answers (.rsEuclid e0) s { status := .ok, vq := some (v (n + 1)), vr := some (r (n + 1)) })
end

