-- ==== Sys2Proof/Laws/Decode.lean ====
section
/-!
SUPPORT. The fields of an encoded command word (30_encoding.md R70, R80).
-/

namespace Sys2Proof

/-- The word as a number: the code and the scalars at their places (30_encoding.md R80). -/
theorem cmdWord_toNat (op : BitVec 8) (a b : Sym) :
    (cmdWord op a b).toNat = op.toNat * 2 ^ 24 + b.toNat * 2 ^ 8 + a.toNat := by
  have ha : a.toNat < 2 ^ 6 := a.isLt
  have hb : b.toNat < 2 ^ 6 := b.isLt
  simp only [cmdWord, BitVec.toNat_append]
  rw [← Nat.shiftLeft_add_eq_or_of_lt ha, ← Nat.shiftLeft_add_eq_or_of_lt (by simp),
    ← Nat.shiftLeft_add_eq_or_of_lt hb, ← Nat.shiftLeft_add_eq_or_of_lt (by simp)]
  have h10 : (0#10).toNat = 0 := rfl
  have h2 : (0#2).toNat = 0 := rfl
  simp only [Nat.shiftLeft_eq, h10, h2]
  omega

/-- A field of a word, as a number. -/
theorem field_toNat (w : Cmd) (lo len : Nat) :
    (w.extractLsb' lo len).toNat = w.toNat / 2 ^ lo % 2 ^ len := by
  simp [BitVec.extractLsb'_toNat, Nat.shiftRight_eq_div_pow]

theorem cmdWord_op (op : BitVec 8) (a b : Sym) : (cmdWord op a b).op = op := by
  apply BitVec.eq_of_toNat_eq
  have ha : a.toNat < 2 ^ 6 := a.isLt
  have hb : b.toNat < 2 ^ 6 := b.isLt
  have ho : op.toNat < 2 ^ 8 := op.isLt
  rw [Cmd.op, field_toNat, cmdWord_toNat]
  omega

theorem cmdWord_z1 (op : BitVec 8) (a b : Sym) : (cmdWord op a b).z1 = 0#10 := by
  apply BitVec.eq_of_toNat_eq
  have ha : a.toNat < 2 ^ 6 := a.isLt
  have hb : b.toNat < 2 ^ 6 := b.isLt
  have h0 : (0#10).toNat = 0 := rfl
  rw [Cmd.z1, field_toNat, cmdWord_toNat, h0]
  omega

theorem cmdWord_b (op : BitVec 8) (a b : Sym) : (cmdWord op a b).b = b := by
  apply BitVec.eq_of_toNat_eq
  have ha : a.toNat < 2 ^ 6 := a.isLt
  have hb : b.toNat < 2 ^ 6 := b.isLt
  rw [Cmd.b, field_toNat, cmdWord_toNat]
  omega

theorem cmdWord_z0 (op : BitVec 8) (a b : Sym) : (cmdWord op a b).z0 = 0#2 := by
  apply BitVec.eq_of_toNat_eq
  have ha : a.toNat < 2 ^ 6 := a.isLt
  have hb : b.toNat < 2 ^ 6 := b.isLt
  have h0 : (0#2).toNat = 0 := rfl
  rw [Cmd.z0, field_toNat, cmdWord_toNat, h0]
  omega

theorem cmdWord_a (op : BitVec 8) (a b : Sym) : (cmdWord op a b).a = a := by
  apply BitVec.eq_of_toNat_eq
  have ha : a.toNat < 2 ^ 6 := a.isLt
  rw [Cmd.a, field_toNat, cmdWord_toNat]
  omega

/-- No two rows of the opcode map have the same code. -/
theorem opcodeMap_distinct : opcodeMap.Pairwise (fun r s => r.op ≠ s.op) := by
  simp only [opcodeMap, List.pairwise_cons]
  decide

end Sys2Proof
end

