-- ==== Sys2Proof/Laws/State.lean ====
section
/-!
SUPPORT. One lemma per field of `State` for each named update.
-/

namespace Sys2Proof.Machine

@[simp] theorem samplePorts_ready (s : State) (r : Request) :
    (samplePorts s r).ready = s.ready := rfl
@[simp] theorem samplePorts_const (s : State) (r : Request) :
    (samplePorts s r).const = s.const := rfl
@[simp] theorem samplePorts_ports (s : State) (r : Request) : (samplePorts s r).ports = r := rfl
@[simp] theorem samplePorts_resp (s : State) (r : Request) :
    (samplePorts s r).resp = s.resp := rfl
@[simp] theorem samplePorts_inputs (s : State) (r : Request) :
    (samplePorts s r).inputs = s.inputs := rfl

@[simp] theorem assertReset_ready (s : State) : (assertReset s).ready = false := rfl
@[simp] theorem assertReset_const (s : State) : (assertReset s).const = s.const := rfl
@[simp] theorem assertReset_ports (s : State) : (assertReset s).ports = Request.zero := rfl
@[simp] theorem assertReset_resp (s : State) : (assertReset s).resp = none := rfl
@[simp] theorem assertReset_inputs (s : State) : (assertReset s).inputs = s.inputs := rfl

@[simp] theorem initialise_ready (s : State) : (initialise s).ready = true := rfl
@[simp] theorem initialise_const (s : State) :
    (initialise s).const = Constants.build Config.params := rfl
@[simp] theorem initialise_ports (s : State) : (initialise s).ports = s.ports := rfl
@[simp] theorem initialise_resp (s : State) : (initialise s).resp = s.resp := rfl
@[simp] theorem initialise_inputs (s : State) : (initialise s).inputs = s.inputs := rfl

@[simp] theorem presentCommand_ready (s : State) (w : Cmd) :
    (presentCommand s w).ready = s.ready := rfl
@[simp] theorem presentCommand_const (s : State) (w : Cmd) :
    (presentCommand s w).const = s.const := rfl
@[simp] theorem presentCommand_ports (s : State) (w : Cmd) :
    (presentCommand s w).ports = s.ports := rfl
@[simp] theorem presentCommand_resp (s : State) (w : Cmd) :
    (presentCommand s w).resp = s.resp := rfl
@[simp] theorem presentCommand_inputs (s : State) (w : Cmd) :
    (presentCommand s w).inputs = .transaction { s.ports with cmd := w } :: s.inputs := rfl

@[simp] theorem withFetchWord_eq (s : State) (n w : Nat) :
    s.withFetchWord n w = presentCommand s (BitVec.ofNat 32 w) := rfl

end Sys2Proof.Machine
end

