-- ==== Sys2Proof/Laws/Ops.lean ====
section
/-!
SUPPORT. What each shared operation can do: one lemma per operation, which proofs about an
instruction cite.
-/

namespace Sys2Proof.Machine

theorem deliver_of_ready {s : State} (h : s.ready = true) (r : Response) :
    deliver s r = .next { s with resp := some r } := by simp [deliver, h]

theorem deliver_of_not_ready {s : State} (h : s.ready = false) (r : Response) :
    deliver s r = .refused .commandBeforeReady := by simp [deliver, h]

/-- A transaction delivers a response only when `READY = 1`, and changes nothing else. -/
theorem deliver_next {s t : State} {r : Response} (h : deliver s r = .next t) :
    s.ready = true ∧ t = { s with resp := some r } := by
  unfold deliver at h
  split at h
  · exact ⟨‹_›, (Host.Outcome.next.inj h).symm⟩
  · cases h

/-- An operation that answers, answered with its response or with what a raised status leaves. -/
theorem finishWith_next {f : Status → Response} {s t : State} {x : Except Abort Response}
    (h : finishWith f s x = .next t) :
    s.ready = true ∧
      ((∃ r, x = .ok r ∧ t = { s with resp := some r }) ∨
        ∃ c, x = .error (.raise c) ∧ t = { s with resp := some (f c) }) := by
  match x with
  | .ok r => exact ⟨(deliver_next h).1, .inl ⟨r, rfl, (deliver_next h).2⟩⟩
  | .error (.raise c) => exact ⟨(deliver_next h).1, .inr ⟨c, rfl, (deliver_next h).2⟩⟩
  | .error (.stop _) =>
    simp only [finishWith] at h
    split at h <;> cases h

theorem finishWith_ok {s : State} (h : s.ready = true) (f : Status → Response) (r : Response) :
    finishWith f s (.ok r) = .next { s with resp := some r } := deliver_of_ready h r

theorem finishWith_raise {s : State} (h : s.ready = true) (f : Status → Response) (c : Status) :
    finishWith f s (.error (.raise c)) = .next { s with resp := some (f c) } :=
  deliver_of_ready h (f c)

theorem finishWith_not_ready {s : State} (h : s.ready = false) (f : Status → Response)
    (x : Except Abort Response) : finishWith f s x = .refused .commandBeforeReady := by
  match x with
  | .ok r => exact deliver_of_not_ready h r
  | .error (.raise c) => exact deliver_of_not_ready h (f c)
  | .error (.stop _) => simp [finishWith, h]

theorem finish_ok {s : State} (h : s.ready = true) (r : Response) :
    finish s (.ok r) = .next { s with resp := some r } := deliver_of_ready h r

theorem finish_raise {s : State} (h : s.ready = true) (c : Status) :
    finish s (.error (.raise c)) = .next { s with resp := some (Response.failed c) } :=
  deliver_of_ready h _

theorem finish_not_ready {s : State} (h : s.ready = false) (x : Except Abort Response) :
    finish s x = .refused .commandBeforeReady := finishWith_not_ready h _ x

theorem alphaPow_mod (K : Constants) (e : Nat) : alphaPow K (e % 63) = alphaPow K e := by
  simp [alphaPow]

theorem alphaPow_eq_of_lt (K : Constants) {e : Nat} (h : e < 63) : alphaPow K e = K.pow[e] := by
  simp [alphaPow, powAt, Nat.mod_eq_of_lt h]

@[simp] theorem xorSum_zero (f : Nat → Sym) : xorSum f 0 = 0#6 := rfl

@[simp] theorem xorSum_succ (f : Nat → Sym) (n : Nat) :
    xorSum f (n + 1) = xorSum f n ^^^ f n := rfl

theorem xorSum_congr {f g : Nat → Sym} {n : Nat} (h : ∀ i < n, f i = g i) :
    xorSum f n = xorSum g n := by
  induction n with
  | zero => rfl
  | succ n ih => simp [ih fun i hi => h i (by omega), h n (by omega)]

theorem xorSum_eq_zero {f : Nat → Sym} {n : Nat} (h : ∀ i < n, f i = 0#6) : xorSum f n = 0#6 := by
  induction n with
  | zero => rfl
  | succ n ih => simp [ih fun i hi => h i (by omega), h n (by omega)]

theorem xorSum_xor (f g : Nat → Sym) (n : Nat) :
    xorSum (fun i => f i ^^^ g i) n = xorSum f n ^^^ xorSum g n := by
  induction n with
  | zero => simp
  | succ n ih => simp only [xorSum_succ, ih]; ac_rfl

theorem xorSum_shift (f : Nat → Sym) (n : Nat) :
    xorSum f (n + 1) = f 0 ^^^ xorSum (fun i => f (i + 1)) n := by
  induction n with
  | zero => simp
  | succ n ih => rw [xorSum_succ, ih, xorSum_succ, BitVec.xor_assoc]

end Sys2Proof.Machine
end

