-- ==== Sys2Proof/Laws/Operands.lean ====
section
/-!
SUPPORT. The canonical form (10_state.md R32, R33) and the operand forms (41_poly.md R120, R121).
-/

namespace Sys2Proof.Machine

@[simp] theorem coef_nil (i : Nat) : coef [] i = 0#6 := rfl
@[simp] theorem coef_cons_zero (c : Sym) (cs : List Sym) : coef (c :: cs) 0 = c := rfl
@[simp] theorem coef_cons_succ (c : Sym) (cs : List Sym) (i : Nat) :
    coef (c :: cs) (i + 1) = coef cs i := rfl

theorem coef_of_length_le {p : List Sym} {i : Nat} (h : p.length ≤ i) : coef p i = 0#6 := by
  exact List.getD_eq_default _ _ h

theorem coef_of_lt {p : List Sym} {i : Nat} (h : i < p.length) : coef p i = p[i] := by
  exact List.getD_eq_getElem _ _ h

theorem coef_take (p : List Sym) (n i : Nat) :
    coef (p.take n) i = if i < n then coef p i else 0#6 := by
  simp only [coef, List.getD_eq_getElem?_getD, List.getElem?_take]
  split <;> rfl

theorem coef_map_range (f : Nat → Sym) (n i : Nat) :
    coef ((List.range n).map f) i = if i < n then f i else 0#6 := by
  simp only [coef, List.getD_eq_getElem?_getD, List.getElem?_map]
  by_cases h : i < n
  · simp [h]
  · simp [h]

/-- A sequence keeps its coefficients when its trailing zeros are removed. -/
theorem coef_stripZeros (s : List Sym) (i : Nat) : coef (stripZeros s) i = coef s i := by
  induction s generalizing i with
  | nil => rfl
  | cons c cs ih =>
    unfold stripZeros
    split
    · rename_i h
      split
      · rename_i hc
        cases i with
        | zero => simp [hc]
        | succ i => simpa [h] using ih i
      · cases i with
        | zero => rfl
        | succ i => simpa [h] using ih i
    · rename_i h
      cases i with
      | zero => rfl
      | succ i => simpa [h] using ih i

theorem length_stripZeros_le (s : List Sym) : (stripZeros s).length ≤ s.length := by
  induction s with
  | nil => simp [stripZeros]
  | cons c cs ih =>
    unfold stripZeros
    split
    · split <;> simp
    · rename_i h
      rw [h] at ih
      simpa using ih

/-- What is left after the trailing zeros are removed does not end in a zero. -/
theorem stripZeros_getLastD (s : List Sym) :
    stripZeros s = [] ∨ (stripZeros s).getLastD 0#6 ≠ 0#6 := by
  induction s with
  | nil => exact .inl rfl
  | cons c cs ih =>
    unfold stripZeros
    split
    · split
      · exact .inl rfl
      · exact .inr (by simpa)
    · rename_i h
      rw [h] at ih
      exact .inr (by simpa using ih)

/-- `norm` keeps every coefficient. -/
@[simp] theorem coef_norm (s : List Sym) (i : Nat) : coef (norm s) i = coef s i := by
  unfold norm
  split
  · rename_i h
    have := coef_stripZeros s i
    rw [h] at this
    cases i <;> simpa using this
  · rename_i h
    rw [← h, coef_stripZeros]

/-- `norm` answers a canonical polynomial. -/
theorem canonical_norm (s : List Sym) : Poly.canonical (norm s) = true := by
  unfold norm
  split
  · rfl
  · rename_i c cs h
    have := stripZeros_getLastD s
    rw [h] at this
    have h0 : (c :: cs).getLast?.getD 0#6 ≠ 0#6 := by simpa using this
    simpa [Poly.canonical] using Or.inr h0

theorem norm_ne_nil (s : List Sym) : norm s ≠ [] := by
  unfold norm
  split <;> simp

theorem length_norm_pos (s : List Sym) : 1 ≤ (norm s).length :=
  List.length_pos_iff.mpr (norm_ne_nil s)

theorem length_norm_le (s : List Sym) : (norm s).length ≤ max s.length 1 := by
  have := length_stripZeros_le s
  unfold norm
  split
  · simp
  · rename_i h
    rw [h] at this
    exact le_max_of_le_left this

theorem outPoly_ok {p : Poly} (h : p.length ≤ capacity) : outPoly p = .ok p := by
  simp [outPoly, h]

theorem outPoly_eq_ok {p : Poly} {v : List Sym} (h : outPoly p = .ok v) :
    v = p ∧ p.length ≤ capacity := by
  unfold outPoly at h
  split at h
  · exact ⟨(Except.ok.inj h).symm, ‹_›⟩
  · cases h

/-- A polynomial operand has 1 to 63 coefficients. -/
theorem length_inPoly (n : BitVec 6) (v : Word63) :
    1 ≤ (inPoly n v).length ∧ (inPoly n v).length ≤ capacity := by
  refine ⟨length_norm_pos _, (length_norm_le _).trans ?_⟩
  have : (v.toList.take n.toNat).length ≤ 63 := by
    simp [List.length_take]
  exact max_le this (by decide)

theorem maskWord_get (r : Word63) (em : Mask63) (i : Fin 63) :
    (maskWord r em)[i] = if em[i] then 0#6 else r[i] := by
  simp [maskWord]

end Sys2Proof.Machine
end

