-- ==== Sys2Proof/Laws/PerInstr.lean ====
section
/-!
SUPPORT. A statement about every operation as syntax: its command word has the operation's code, its
scalars and clear reserved bits (30_encoding.md R70, R80), and it is well formed.
-/

/-- The operation is well formed, and its command word is the one of its row: the code in `OP`, the
scalars in `A` and `B`, the reserved fields 0, a scalar its format does not read 0. -/
def Sys2Proof.Laws.EncodedWord.Statement (i : Sys2Proof.Instr) : Prop :=
  i.wellFormed = true ∧
  (Sys2Proof.encode i).toNat =
    (Sys2Proof.opcode i).toNat * 2 ^ 24 + (Sys2Proof.scalarB i).toNat * 2 ^ 8
      + (Sys2Proof.scalarA i).toNat ∧
  ((Sys2Proof.Safety.formatOf i).readsA = false → Sys2Proof.scalarA i = 0#6) ∧
  ((Sys2Proof.Safety.formatOf i).readsB = false → Sys2Proof.scalarB i = 0#6)

namespace Sys2Proof.Laws.EncodedWord

theorem of_fields {i : Instr} (hw : i.wellFormed = true)
    (ha : (Safety.formatOf i).readsA = false → scalarA i = 0#6)
    (hb : (Safety.formatOf i).readsB = false → scalarB i = 0#6) : Statement i :=
  ⟨hw, cmdWord_toNat _ _ _, ha, hb⟩

theorem gfAdd (a b : Sym) : Statement (.gfAdd a b) :=
  of_fields rfl (fun h => by cases h) (fun h => by cases h)
theorem gfMul (a b : Sym) : Statement (.gfMul a b) :=
  of_fields rfl (fun h => by cases h) (fun h => by cases h)
theorem gfDiv (a b : Sym) : Statement (.gfDiv a b) :=
  of_fields rfl (fun h => by cases h) (fun h => by cases h)
theorem pAdd : Statement .pAdd := of_fields rfl (fun _ => rfl) (fun _ => rfl)
theorem pSmul (c : Sym) : Statement (.pSmul c) :=
  of_fields rfl (fun h => by cases h) (fun _ => rfl)
theorem pMul : Statement .pMul := of_fields rfl (fun _ => rfl) (fun _ => rfl)
theorem pDivmod : Statement .pDivmod := of_fields rfl (fun _ => rfl) (fun _ => rfl)
theorem pEval (x : Sym) : Statement (.pEval x) :=
  of_fields rfl (fun h => by cases h) (fun _ => rfl)
theorem pDeriv : Statement .pDeriv := of_fields rfl (fun _ => rfl) (fun _ => rfl)
theorem pTrunc (m : BitVec 6) : Statement (.pTrunc m) :=
  of_fields rfl (fun h => by cases h) (fun _ => rfl)
theorem pIszero : Statement .pIszero := of_fields rfl (fun _ => rfl) (fun _ => rfl)
theorem rsSynd : Statement .rsSynd := of_fields rfl (fun _ => rfl) (fun _ => rfl)
theorem rsErasloc : Statement .rsErasloc := of_fields rfl (fun _ => rfl) (fun _ => rfl)
theorem rsModsynd : Statement .rsModsynd := of_fields rfl (fun _ => rfl) (fun _ => rfl)
theorem rsEuclid (e0 : BitVec 6) : Statement (.rsEuclid e0) :=
  of_fields rfl (fun h => by cases h) (fun _ => rfl)
theorem rsRoots : Statement .rsRoots := of_fields rfl (fun _ => rfl) (fun _ => rfl)
theorem rsForney : Statement .rsForney := of_fields rfl (fun _ => rfl) (fun _ => rfl)
theorem rsEnc : Statement .rsEnc := of_fields rfl (fun _ => rfl) (fun _ => rfl)
theorem rsDec : Statement .rsDec := of_fields rfl (fun _ => rfl) (fun _ => rfl)

end Sys2Proof.Laws.EncodedWord
end

