-- ==== Sys2Proof/Laws/Poly.lean ====
section
/-!
SUPPORT. The coefficients and lengths of the sequences the polynomial functions build
(41_poly.md R123 to R129).
-/

namespace Sys2Proof.Machine

@[simp] theorem gfMul_zero_left (K : Constants) (b : Sym) : gfMul K 0#6 b = 0#6 := by simp [gfMul]

@[simp] theorem gfMul_zero_right (K : Constants) (a : Sym) : gfMul K a 0#6 = 0#6 := by
  unfold gfMul
  split <;> simp

@[simp] theorem xorSeq_nil_left (q : List Sym) : xorSeq [] q = q := by
  cases q <;> rfl

@[simp] theorem xorSeq_nil_right (p : List Sym) : xorSeq p [] = p := by
  cases p <;> rfl

@[simp] theorem coef_xorSeq (p q : List Sym) (i : Nat) :
    coef (xorSeq p q) i = coef p i ^^^ coef q i := by
  induction p generalizing q i with
  | nil => simp
  | cons a p ih =>
    cases q with
    | nil => simp
    | cons b q => cases i with
      | zero => rfl
      | succ i => simpa [xorSeq] using ih q i

theorem length_xorSeq (p q : List Sym) : (xorSeq p q).length = max p.length q.length := by
  induction p generalizing q with
  | nil => simp
  | cons a p ih =>
    cases q with
    | nil => simp
    | cons b q => simp [xorSeq, ih, Nat.succ_max_succ]

/-- A map that sends 0 to 0 acts on every coefficient. -/
theorem coef_map {f : Sym → Sym} (h : f 0#6 = 0#6) (p : List Sym) (i : Nat) :
    coef (p.map f) i = f (coef p i) := by
  induction p generalizing i with
  | nil => simp [h]
  | cons a p ih => cases i with
    | zero => rfl
    | succ i => simpa using ih i

@[simp] theorem coef_scaleSeq (K : Constants) (p : List Sym) (c : Sym) (i : Nat) :
    coef (scaleSeq K p c) i = gfMul K (coef p i) c := coef_map (by simp) p i

/-- A coefficient of the convolution is the XOR of the products of the coefficients whose indices
add up to its own. -/
theorem coef_convolve (K : Constants) (p q : List Sym) (k : Nat) :
    coef (convolve K p q) k = xorSum (fun i => gfMul K (coef p i) (coef q (k - i))) (k + 1) := by
  induction p generalizing k with
  | nil => rw [xorSum_eq_zero (by simp)]; rfl
  | cons a p ih =>
    rw [xorSum_shift]
    simp only [convolve, coef_xorSeq, coef_map (gfMul_zero_right K a), coef_cons_zero,
      coef_cons_succ, Nat.sub_zero]
    congr 1
    cases k with
    | zero => simp
    | succ k =>
      rw [coef_cons_succ, ih]
      exact xorSum_congr fun i _ => by rw [Nat.add_sub_add_right]

theorem length_convolve_le (K : Constants) (p q : List Sym) :
    (convolve K p q).length ≤ p.length + q.length := by
  induction p with
  | nil => simp [convolve]
  | cons a p ih => simp only [convolve, length_xorSeq, List.length_map, List.length_cons]; omega

theorem length_convolve_lt (K : Constants) (p q : List Sym) (hq : q ≠ []) :
    (convolve K p q).length + 1 ≤ p.length + q.length := by
  have hq' := List.length_pos_iff.mpr hq
  induction p with
  | nil => simp only [convolve, List.length_nil]; omega
  | cons a p ih => simp only [convolve, length_xorSeq, List.length_map, List.length_cons]; omega

/-- Where a step of the long division answers, it answers the loop's next call. -/
theorem gfDiv_of_ne_zero (K : Constants) {b : Sym} (h : b ≠ 0#6) (a : Sym) :
    ∃ c, gfDiv K a b = .ok c := by
  unfold gfDiv
  rw [dif_neg h]
  split <;> exact ⟨_, rfl⟩

end Sys2Proof.Machine
end

