-- ==== Sys2Proof/Laws/Tables.lean ====
section
/-!
SUPPORT. The tables 10_state.md R25 and R28 print are those R22, R23 and R26 build under the default
parameters, and the default parameters are legal.
-/

namespace Sys2Proof.Machine

theorem buildPow_default : buildPow 0x43 = standardPow := by decide +kernel

theorem buildLog_default : buildLog standardPow = standardLog := by decide +kernel

theorem buildGen_default :
    buildGen { pow := standardPow, log := standardLog, gen := Vector.replicate 22 0#6 } 1 =
      standardGen := by decide +kernel

theorem standard_eq_build : Constants.standard = Constants.build Config.params := by
  have h : Constants.build Config.params =
      { pow := buildPow 0x43, log := buildLog (buildPow 0x43),
        gen := buildGen { pow := buildPow 0x43, log := buildLog (buildPow 0x43),
                          gen := Vector.replicate 22 0#6 } 1 } := rfl
  rw [h, buildPow_default, buildLog_default, buildGen_default]
  rfl

theorem config_params_legal : paramsLegal Config.params = true := by decide +kernel

theorem standard_legal : Safety.ConstantsLegal Constants.standard :=
  ⟨Config.params, config_params_legal, standard_eq_build⟩

theorem reset_const_legal : Safety.ConstantsLegal State.reset.const := standard_legal

end Sys2Proof.Machine
end

