-- ==== Sys2Proof/Tests/Slice0.lean ====
section
/-!
SUPPORT. The model's own tests: words of 30_encoding.md written out and decoded, single transactions
of 95_test_vectors.md, ill-formed data refused, and, for each obligation with premises, a state and
operands that meet them. Expected values are the spec's.
-/

namespace Sys2Proof.Tests

set_option Elab.async false

open Sys2Proof.Machine Sys2Proof.Safety

/-- A mask with the listed positions marked. -/
def mask (l : List Nat) : Mask63 := Vector.ofFn fun i => l.contains i.val

/-- A request with the two vectors, their lengths and the erased positions. -/
def request (cmd : Cmd) (va vb : List Sym) (em : List Nat) : Request :=
  { cmd := cmd, la := BitVec.ofNat 6 va.length, va := padWord va,
    lb := BitVec.ofNat 6 vb.length, vb := padWord vb, em := mask em }

/-- The state after reset with the ports sampled. -/
def sampled (va vb : List Sym) (em : List Nat) : State :=
  samplePorts State.reset (request 0 va vb em)

/-- The response of an outcome. -/
def answerOf (o : Host.Outcome State Fault Refusal) : Option Response :=
  match o with
  | .next s => s.resp
  | .fault _ | .refused _ => none

/-- The response to a word, presented as the first act after reset. -/
def run (cmd : Cmd) (va vb : List Sym) (em : List Nat) : Option Response :=
  answerOf (step { State.reset with inputs := [.transaction (request cmd va vb em)] })

/-- `Answers` as a check. -/
def answersCheck (i : Instr) (s : State) (r : Response) : Bool :=
  match exec i s with
  | .next t => t == { s with resp := some r }
  | .fault _ | .refused _ => false

theorem answers_of_check {i : Instr} {s : State} {r : Response}
    (h : answersCheck i s r = true) : Answers i s r := by
  unfold answersCheck at h
  unfold Answers
  split at h
  · rename_i t ht
    rw [ht, eq_of_beq h]
  · cases h
  · cases h

/-! ### Ill-formed data is refused -/

theorem test_canonical_refuses_empty : Poly.canonical [] = false := by decide
theorem test_canonical_refuses_trailing_zero : Poly.canonical [1#6, 0#6] = false := by decide
theorem test_canonical_accepts_zero : Poly.canonical [0#6] = true := by decide
theorem test_port_length_refuses_none : portLengthOk [] = false := by decide
theorem test_port_length_refuses_64 : portLengthOk (List.replicate 64 1#6) = false := by
  decide +kernel
theorem test_legal_refuses_x6_1 : paramsLegal { primPoly := 0x41, genScale := 1 } = false := by
  decide +kernel
theorem test_legal_refuses_order_9 : paramsLegal { primPoly := 0x49, genScale := 1 } = false := by
  decide +kernel
theorem test_legal_refuses_scale_0 : paramsLegal { primPoly := 0x43, genScale := 0 } = false := by
  decide +kernel

/-! ### Decoding: the words of 30_encoding.md R78, R80 and 95_test_vectors.md -/

theorem test_decode_gfAdd : decode 0x10002A15#32 = .ok (.gfAdd 21#6 42#6) := by decide
theorem test_decode_gfMul : decode 0x11002002#32 = .ok (.gfMul 2#6 32#6) := by decide
theorem test_decode_gfDiv : decode 0x1200070A#32 = .ok (.gfDiv 10#6 7#6) := by decide
theorem test_decode_pAdd : decode 0x20000000#32 = .ok .pAdd := by decide
theorem test_decode_pSmul : decode 0x2100003F#32 = .ok (.pSmul 63#6) := by decide
theorem test_decode_pMul : decode 0x22000000#32 = .ok .pMul := by decide
theorem test_decode_pDivmod : decode 0x23000000#32 = .ok .pDivmod := by decide
theorem test_decode_pEval : decode 0x24000021#32 = .ok (.pEval 33#6) := by decide
theorem test_decode_pDeriv : decode 0x25000000#32 = .ok .pDeriv := by decide
theorem test_decode_pTrunc : decode 0x26000014#32 = .ok (.pTrunc 20#6) := by decide
theorem test_decode_pIszero : decode 0x27000000#32 = .ok .pIszero := by decide
theorem test_decode_rsSynd : decode 0x30000000#32 = .ok .rsSynd := by decide
theorem test_decode_rsErasloc : decode 0x31000000#32 = .ok .rsErasloc := by decide
theorem test_decode_rsModsynd : decode 0x32000000#32 = .ok .rsModsynd := by decide
theorem test_decode_rsEuclid : decode 0x33000016#32 = .ok (.rsEuclid 22#6) := by decide
theorem test_decode_rsRoots : decode 0x34000000#32 = .ok .rsRoots := by decide
theorem test_decode_rsForney : decode 0x35000000#32 = .ok .rsForney := by decide
theorem test_decode_rsEnc : decode 0x40000000#32 = .ok .rsEnc := by decide
theorem test_decode_rsDec : decode 0x41000000#32 = .ok .rsDec := by decide
theorem test_decode_unassigned : decode 0x50400000#32 = .error (.unassignedOpcode 0x50#8) := by
  decide
theorem test_decode_reserved_z1 : decode 0x11800000#32 = .error .reservedBitSet := by decide
theorem test_decode_reserved_z0 : decode 0x10000080#32 = .error .reservedBitSet := by decide
theorem test_decode_unread_b : decode 0x24003F02#32 = .error .unreadScalarSet := by decide
theorem test_table_word : decodeTableWord 32 0x33000015 = some (.rsEuclid 21#6) := by decide
theorem test_table_word_illegal : decodeTableWord 32 0x41000001 = none := by decide
theorem test_encode_pEval : encode (.pEval 2#6) = 0x24000002#32 := by decide

/-! ### One transaction each (95_test_vectors.md sections 3 and 4) -/

theorem test_gfAdd : run 0x10002A15 [] [] [] = some { status := .ok, sr := some 63 } := by decide
theorem test_gfMul_wraps : run 0x11003F3F [] [] [] = some { status := .ok, sr := some 42 } := by
  decide +kernel
theorem test_gfMul_inverse : run 0x11000221 [] [] [] = some { status := .ok, sr := some 1 } := by
  decide +kernel
theorem test_gfDiv : run 0x1200070A [] [] [] = some { status := .ok, sr := some 52 } := by
  decide +kernel
theorem test_gfDiv_zero_by_zero : run 0x12000000 [] [] [] = some { status := .divisionByZero } := by
  decide
theorem test_pAdd_cancels :
    run 0x20000000 [1, 2, 3] [4, 5, 3] [] = some { status := .ok, vr := some [5, 7] } := by
  decide +kernel
theorem test_pAdd_empty :
    run 0x20000000 [] [5, 6] [] = some { status := .ok, vr := some [5, 6] } := by decide +kernel
theorem test_pSmul :
    run 0x21000002 [1, 0, 33] [] [] = some { status := .ok, vr := some [2, 0, 1] } := by
  decide +kernel
theorem test_pMul :
    run 0x22000000 [8, 6, 1] [8, 1] [] = some { status := .ok, vr := some [3, 56, 14, 1] } := by
  decide +kernel
theorem test_pMul_overflow :
    run 0x22000000 (List.replicate 32 1) (List.replicate 33 1) [] =
      some { status := .resultOverflow } := by decide +kernel
theorem test_pDivmod :
    run 0x23000000 [5, 6, 7, 8] [3, 2] [] =
      some { status := .ok, vq := some [53, 36, 4], vr := some [25] } := by decide +kernel
theorem test_pDivmod_by_zero :
    run 0x23000000 [0] [0] [] = some { status := .divisionByZeroPolynomial } := by decide +kernel
theorem test_pEval : run 0x24000002 [5, 6, 7] [] [] = some { status := .ok, sr := some 21 } := by
  decide +kernel
theorem test_pEval_at_zero :
    run 0x24000000 [5, 6, 7] [] [] = some { status := .ok, sr := some 5 } := by decide +kernel
theorem test_pDeriv :
    run 0x25000000 [9, 8, 7, 6, 5] [] [] = some { status := .ok, vr := some [8, 0, 6] } := by
  decide +kernel
theorem test_pTrunc_keeps_degree_m :
    run 0x26000001 [1, 2, 3, 4] [] [] = some { status := .ok, vr := some [1, 2] } := by
  decide +kernel
theorem test_pTrunc_normalises :
    run 0x26000002 [1, 0, 0, 4] [] [] = some { status := .ok, vr := some [1] } := by decide +kernel
theorem test_pIszero : run 0x27000000 [0, 0, 0] [] [] = some { status := .ok, fr := some true } := by
  decide +kernel
theorem test_pIszero_not : run 0x27000000 [0, 1] [] [] = some { status := .ok, fr := some false } := by
  decide +kernel
theorem test_rsSynd :
    run 0x30000000 (List.replicate 7 0 ++ [9] ++ List.replicate 55 0) [] [] =
      some { status := .ok, fr := some false,
             vr := some [54, 50, 42, 57, 16, 35, 15, 34, 9, 54, 50, 42, 57, 16, 35, 15, 34, 9, 54,
               50, 42] } := by decide +kernel
theorem test_rsSynd_length :
    run 0x30000000 (List.replicate 62 0) [] [] = some { status := .badOperand } := by decide +kernel
theorem test_rsErasloc :
    run 0x31000000 [] [] [2, 30] = some { status := .ok, vr := some [1, 55, 9], cr := some 2 } := by
  decide +kernel
theorem test_rsErasloc_22 :
    run 0x31000000 [] [] (List.range 22) = some { status := .erasureCapacityExceeded } := by
  decide +kernel
theorem test_rsModsynd_keeps_20 :
    run 0x32000000 (List.replicate 19 0 ++ [1]) [0, 7] [] =
      some { status := .ok, vr := some (List.replicate 20 0 ++ [7]) } := by decide +kernel
theorem test_rsModsynd_drops_21 :
    run 0x32000000 (List.replicate 20 0 ++ [1, 1]) [0, 7] [] =
      some { status := .ok, vr := some [0] } := by decide +kernel
theorem test_rsEuclid :
    run 0x33000000 (List.replicate 21 5) [] [] =
      some { status := .ok, vq := some [43, 43], vr := some [1] } := by decide +kernel
theorem test_rsEuclid_22 : run 0x33000016 [1] [] [] = some { status := .badOperand } := by
  decide +kernel
theorem test_rsRoots_position_62 :
    run 0x34000000 [1, 33] [] [] =
      some { status := .ok, rm := some (mask [62]), cr := some 1 } := by decide +kernel
theorem test_rsRoots_double_root :
    run 0x34000000 [1, 0, 1] [] [] = some { status := .ok, rm := some (mask []), cr := some 0 } := by
  decide +kernel
theorem test_rsForney :
    run 0x35000000 [43, 43] [1] [] =
      some { status := .ok, vr := some (5 :: List.replicate 62 0), rm := some (mask [0]),
             cr := some 1 } := by decide +kernel
theorem test_rsForney_degree :
    run 0x35000000 [1, 1] [0, 1] [] = some { status := .decodeFailure } := by decide +kernel
theorem test_rsEnc :
    run 0x40000000 (List.replicate 41 0 ++ [7]) [] [] =
      some { status := .ok,
             vr := some (List.replicate 41 0 ++ [32, 60, 39, 21, 44, 32, 59, 8, 31, 18, 34, 20, 1,
               2, 21, 13, 48, 60, 10, 26, 1, 7]) } := by decide +kernel
theorem test_rsEnc_length :
    run 0x40000000 (List.replicate 41 0) [] [] = some { status := .invalidMessageLength } := by
  decide +kernel
/-- The all-zero word with the symbol 5 at position 0, nothing erased. -/
def oneError : State := sampled (5 :: List.replicate 62 0) [] []

/-- The source's own example E3. -/
theorem test_rsDec_corrects :
    Answers .rsDec oneError
      { status := .ok, fr := some true, vr := some (List.replicate 63 0) } :=
  answers_of_check (by decide +kernel)
theorem test_rsDec_capacity :
    run 0x41000000 (List.replicate 40 0 ++ [3] ++ List.replicate 22 0) [] (List.range 22) =
      some { status := .erasureCapacityExceeded, fr := some false } := by decide +kernel
theorem test_illegal_command : run 0x50400000 [] [] [] = some { status := .illegalCommand } := by
  decide

/-- A command presented while `READY = 0` is refused, an illegal one too. -/
theorem test_before_ready :
    (match step { State.reset with
        ready := false, inputs := [.transaction (request 0x50400000 [] [] [])] } with
      | .refused c => c == .commandBeforeReady
      | .next _ | .fault _ => false) = true := by decide

/-- The host's own placing of a word is run by the very next step. -/
theorem test_withFetchWord :
    answerOf (step (State.reset.withFetchWord 32 0x11002002)) =
      some { status := .ok, sr := some 3 } := by decide +kernel

/-! ### Premises that can be met -/

/-- After reset, a host that does nothing for a step. -/
def idling : State := { State.reset with inputs := [.idle] }

theorem idling_inv : Inv idling :=
  ⟨fun _ => reset_const_legal, fun _ h => by cases h⟩

/-- Initialisation under way. -/
def starting (inputs : List HostInput) : State :=
  { State.reset with ready := false, inputs := inputs }

theorem sampled_ready (va vb : List Sym) (em : List Nat) : (sampled va vb em).ready = true := rfl

theorem sampled_legal (va vb : List Sym) (em : List Nat) :
    ConstantsLegal (sampled va vb em).const := reset_const_legal

theorem witness_EncodeOfDecodeIsTheWord : decode 0x11002002#32 = .ok (.gfMul 2#6 32#6) := by decide

theorem witness_IllegalWordsAreAnsweredSo :
    State.reset.ready = true ∧
      ∀ row ∈ tableRows, (request 0x10000040 [] [] []).cmd &&& row.2 ≠ row.1 := by
  refine ⟨rfl, ?_⟩
  change ∀ row ∈ tableRows, 0x10000040#32 &&& row.2 ≠ row.1
  simp [tableRows]

theorem witness_StepRunsTheDecodedOperation :
    { State.reset with inputs := [.transaction (request 0x20000000 [1] [2] [])] }.inputs =
      [.transaction (request 0x20000000 [1] [2] [])] ∧
    decode (request 0x20000000 [1] [2] []).cmd = .ok .pAdd ∧
    decode (BitVec.ofNat 32 0x20000000) = .ok .pAdd := by decide +kernel

theorem witness_Ready_not_ready : (starting []).ready = false ∧ (starting []).inputs = [] := by
  decide
theorem witness_Ready_idle :
    (starting [.idle]).ready = false ∧ (starting [.idle]).inputs = [.idle] := ⟨rfl, rfl⟩
theorem witness_Ready_transaction (r : Request) :
    (starting [.transaction r]).ready = false ∧
      (starting [.transaction r]).inputs = [.transaction r] := ⟨rfl, rfl⟩
theorem witness_Ready_assertReset :
    { State.reset with inputs := [.assertReset] }.inputs = [.assertReset] := rfl
theorem witness_Ready_stays :
    idling.ready = true ∧ (∀ rest, idling.inputs ≠ .assertReset :: rest) ∧
      (∀ r rest, idling.inputs ≠ .resetDuringTransaction r :: rest) ∧
      step idling = .next State.reset := by
  refine ⟨rfl, ?_, ?_, rfl⟩ <;> simp [idling]

theorem witness_ResetEventReestablishesTheMachine :
    { State.reset with inputs := [.assertReset, .idle] }.inputs = [.assertReset, .idle] := rfl

theorem witness_ResetAbandonsTheTransaction (r : Request) :
    { State.reset with inputs := [.resetDuringTransaction r] }.ready = true ∧
      { State.reset with inputs := [.resetDuringTransaction r] }.inputs =
        [.resetDuringTransaction r] := ⟨rfl, rfl⟩

theorem witness_StepKeepsTheInvariant : Inv idling ∧ step idling = .next State.reset :=
  ⟨idling_inv, rfl⟩

theorem witness_EveryTransactionIsAnswered :
    idling.ready = true ∧ ConstantsLegal idling.const ∧ Inv idling :=
  ⟨rfl, reset_const_legal, idling_inv⟩

/-- `GF.ADD 5, 3` after reset. -/
theorem gfAdd_answers : Answers (.gfAdd 5 3) State.reset { status := .ok, sr := some 6 } := rfl

theorem witness_OperationsChangeOnlyThePorts :
    (∃ t, exec (.gfAdd 5 3) State.reset = .next t) ∧
      ∃ t, step { State.reset with inputs := [.transaction (request 0x10000305 [] [] [])] } =
        .next t := ⟨⟨_, gfAdd_answers⟩, ⟨_, rfl⟩⟩

theorem witness_FailedResponsesDefineTheStatusAlone :
    (∃ t, exec (.gfDiv 5 0) State.reset = .next t ∧ t.resp = some { status := .divisionByZero }) ∧
      ∃ t, exec .rsDec State.reset = .next t ∧
        t.resp = some { status := .badOperand, fr := some false } :=
  ⟨⟨_, rfl, rfl⟩, ⟨_, rfl, rfl⟩⟩

theorem witness_OkResponsesWriteTheListedPorts :
    ∃ t, exec (.gfAdd 5 3) State.reset = .next t ∧
      t.resp = some { status := .ok, sr := some 6 } := ⟨_, gfAdd_answers, rfl⟩

theorem witness_StatusCodesByOperation :
    ConstantsLegal State.reset.const ∧
      (∃ t, transact State.reset (request 0x10000305 [] [] []) = .next t) ∧
      ∃ t, transact State.reset (request 0x00000000 [] [] []) = .next t :=
  ⟨reset_const_legal, ⟨_, rfl⟩, ⟨_, rfl⟩⟩

theorem witness_ResponsesDependOnTheNamedPorts :
    State.reset.ready = (sampled [] [9] [4]).ready ∧
      State.reset.const = (sampled [] [9] [4]).const ∧
      AgreeOn (formatOf .pIszero) State.reset (sampled [] [9] [4]) ∧
      Answers .pIszero State.reset { status := .ok, fr := some true } := by
  refine ⟨rfl, rfl, ⟨fun _ _ => ⟨rfl, fun i hi => ?_⟩, fun h => absurd h (by decide), ?_⟩, ?_⟩
  · exact absurd hi (Nat.not_lt_zero i)
  · rintro (h | h) <;> exact absurd h (by decide)
  · exact answers_of_check (by decide +kernel)

theorem witness_ErasedSymbolsAreIgnored :
    (∀ j < 63, emAt (sampled (List.replicate 63 0) [] [3]) j = false →
      vaAt (sampled (List.replicate 63 0) [] [3]) j = coef (padWord [0, 0, 0, 9]).toList j) ∧
    Answers .rsDec (sampled (List.replicate 63 0) [] [3])
      { status := .ok, fr := some true, vr := some (List.replicate 63 0) } :=
  ⟨by decide +kernel, answers_of_check (by decide +kernel)⟩

theorem witness_EarlierTransactionsDoNotMatter (r q : Request) :
    { State.reset with inputs := [.transaction r, .transaction q] }.ready = true ∧
      ConstantsLegal { State.reset with inputs := [.transaction r, .transaction q] }.const ∧
      { State.reset with inputs := [.transaction r, .transaction q] }.inputs =
        [r].map HostInput.transaction ++ [.transaction q] := ⟨rfl, reset_const_legal, rfl⟩

theorem witness_TablesAreThoseOfAField : ConstantsLegal Constants.standard := standard_legal

theorem witness_GeneratorVanishesAtTheFirstPowers : paramsLegal Config.params = true :=
  config_params_legal

theorem witness_GfAddIsXor : State.reset.ready = true := rfl

theorem witness_GfMulAddsLogarithms :
    State.reset.ready = true ∧ ConstantsLegal State.reset.const ∧ (0#6 = 0#6 ∨ 7#6 = 0#6) ∧
      (63#6 ≠ 0#6 ∧ 63#6 ≠ 0#6) := ⟨rfl, reset_const_legal, by decide, by decide⟩

theorem witness_GfDivSubtractsLogarithms :
    State.reset.ready = true ∧ ConstantsLegal State.reset.const ∧ 1#6 ≠ 0#6 ∧ 63#6 ≠ 0#6 :=
  ⟨rfl, reset_const_legal, by decide, by decide⟩

theorem witness_FieldLawsHold : ConstantsLegal Constants.standard ∧ 1#6 ≠ 0#6 :=
  ⟨standard_legal, by decide⟩

theorem witness_PowersOfAlphaMultiply :
    ConstantsLegal Constants.standard ∧ 0 < 63 ∧ 62 < 63 ∧ 1#6 ≠ 0#6 :=
  ⟨standard_legal, by decide, by decide, by decide⟩

theorem witness_NormIsTheCanonicalForm_port :
    Poly.canonical (List.replicate 63 7#6) = true ∧ (List.replicate 63 7#6).length ≤ 63 := by
  decide +kernel
theorem witness_NormIsTheCanonicalForm :
    Poly.canonical [5#6, 7#6] = true ∧ ∀ i, coef [5#6, 7#6] i = coef [5#6, 7#6, 0#6] i :=
  ⟨by decide, fun i => coef_norm [5#6, 7#6, 0#6] i⟩

theorem witness_OperandsAreNormalisedOnEntry :
    State.reset.ports.la = 0#6 ∧ State.reset.ports.lb = 0#6 := ⟨rfl, rfl⟩

theorem witness_PAddAddsCoefficients : (sampled [1, 2, 3] [4, 5, 3] []).ready = true := rfl

theorem witness_PSmulScalesCoefficients :
    (sampled [1, 2] [] []).ready = true ∧ ConstantsLegal (sampled [1, 2] [] []).const ∧
      2#6 ≠ 0#6 := ⟨rfl, sampled_legal _ _ _, by decide⟩

theorem witness_PMulConvolves_overflow :
    deg (polyA (sampled (List.replicate 32 1) (List.replicate 33 1) [])) +
      deg (polyB (sampled (List.replicate 32 1) (List.replicate 33 1) [])) = 63 := by decide +kernel
theorem witness_PMulConvolves_fits :
    deg (polyA (sampled (List.replicate 32 1) (List.replicate 32 1) [])) +
      deg (polyB (sampled (List.replicate 32 1) (List.replicate 32 1) [])) = 62 := by decide +kernel
theorem witness_PMulConvolves_zero :
    deg (polyA (sampled [0] [1, 2] [])) + deg (polyB (sampled [0] [1, 2] [])) ≤ 62 ∧
      polyA (sampled [0] [1, 2] []) = [0#6] := by decide +kernel

theorem witness_PDivmodDivides_zero : polyB (sampled [1] [0, 0] []) = [0#6] := by decide +kernel
theorem witness_PDivmodDivides :
    ConstantsLegal (sampled [1, 2] [1, 2, 3] []).const ∧
      polyB (sampled [1, 2] [1, 2, 3] []) ≠ [0#6] ∧
      deg (polyA (sampled [1, 2] [1, 2, 3] [])) < deg (polyB (sampled [1, 2] [1, 2, 3] [])) :=
  ⟨sampled_legal _ _ _, by decide +kernel, by decide +kernel⟩

theorem witness_QuotientAndRemainderAreUnique :
    ConstantsLegal Constants.standard ∧ Poly.canonical [2#6, 1#6] = true ∧
      Poly.canonical [4#6, 1#6] = true ∧ Poly.canonical [0#6] = true ∧ [2#6, 1#6] ≠ [0#6] ∧
      (∀ k, productCoef Constants.standard [4#6, 1#6] [2#6, 1#6] k ^^^ coef [0#6] k =
        productCoef Constants.standard [4#6, 1#6] [2#6, 1#6] k ^^^ coef [0#6] k) ∧
      ([0#6] = [0#6] ∨ deg [0#6] < deg [2#6, 1#6]) :=
  ⟨standard_legal, by decide, by decide, by decide, by decide, fun _ => rfl, .inl rfl⟩

theorem witness_PEvalIsTheValue :
    (sampled [5, 6, 7] [] []).ready = true ∧ ConstantsLegal (sampled [5, 6, 7] [] []).const :=
  ⟨rfl, sampled_legal _ _ _⟩

theorem witness_PDerivKeepsOddTerms :
    (sampled [5] [] []).ready = true ∧ deg (polyA (sampled [5] [] [])) = 0 :=
  ⟨rfl, by decide +kernel⟩

theorem witness_PTruncKeepsLowTerms :
    (sampled [1, 2, 3] [] []).ready = true ∧
      deg (polyA (sampled [1, 2, 3] [] [])) ≤ (2#6).toNat := ⟨rfl, by decide +kernel⟩

theorem witness_PIszeroTestsForZero : (sampled [0, 0] [] []).ready = true := rfl

theorem witness_DegreesOfProductsAndSums :
    ConstantsLegal Constants.standard ∧ Poly.canonical [1#6, 2#6] = true ∧
      Poly.canonical [3#6] = true ∧ [1#6, 2#6] ≠ [0#6] ∧ [3#6] ≠ [0#6] ∧
      deg [1#6, 2#6] ≠ deg [3#6] :=
  ⟨standard_legal, by decide, by decide, by decide, by decide, by decide⟩

/-- A message on the ports: 41 zeros and a 7. -/
def encoding : State := sampled (List.replicate 41 0 ++ [7]) [] []

theorem encoding_la : encoding.ports.la = 42#6 := by decide +kernel

theorem encoding_answers :
    Answers .rsEnc encoding
      { status := .ok,
        vr := some (rsEnc encoding.const (encoding.ports.va.toList.take 42)).toList } := by
  unfold Answers exec execRsEnc
  rw [if_neg (by rw [encoding_la]; decide)]
  exact finish_ok rfl _

theorem witness_RsEncMultipliesByTheGenerator :
    State.reset.ports.la ≠ 42#6 ∧ encoding.ready = true ∧ encoding.ports.la = 42#6 :=
  ⟨by decide, rfl, encoding_la⟩

theorem witness_EncodedWordsAreCodewords :
    encoding.ready = true ∧ ConstantsLegal encoding.const ∧ encoding.ports.la = 42#6 :=
  ⟨rfl, sampled_legal _ _ _, encoding_la⟩

theorem witness_DivisionByTheGeneratorRecoversTheMessage :
    encoding.ready = true ∧ ConstantsLegal encoding.const ∧ encoding.ports.la = 42#6 ∧
      ∃ c, Answers .rsEnc encoding { status := .ok, vr := some c } :=
  ⟨rfl, sampled_legal _ _ _, encoding_la, _, encoding_answers⟩

/-- The all-zero word with 22 erased positions that hold 9. -/
def erased22 : State := sampled (List.replicate 22 9 ++ List.replicate 41 0) [] (List.range 22)

theorem witness_RsSyndComputesTheSyndromes :
    State.reset.ports.la ≠ 63#6 ∧ oneError.ready = true ∧ oneError.ports.la = 63#6 ∧
      ConstantsLegal oneError.const :=
  ⟨by decide, rfl, by decide +kernel, sampled_legal _ _ _⟩

theorem witness_RsEraslocLocatesTheErasures :
    markedCount (sampled [] [] (List.range 22)).ports.em = 22 ∧
      markedCount (sampled [] [] (List.range 21)).ports.em = 21 ∧
      ConstantsLegal (sampled [] [] (List.range 21)).const :=
  ⟨by decide +kernel, by decide +kernel, sampled_legal _ _ _⟩

theorem witness_RsModsyndTruncatesTheProduct_overflow :
    deg (polyA (sampled (List.replicate 40 1) (List.replicate 25 1) [])) +
      deg (polyB (sampled (List.replicate 40 1) (List.replicate 25 1) [])) = 63 := by decide +kernel
theorem witness_RsModsyndTruncatesTheProduct_fits :
    deg (polyA (sampled (List.replicate 40 1) (List.replicate 24 1) [])) +
      deg (polyB (sampled (List.replicate 40 1) (List.replicate 24 1) [])) = 62 := by decide +kernel
theorem witness_RsModsyndTruncatesTheProduct_zero :
    deg (polyA (sampled [1, 3] [0] [])) + deg (polyB (sampled [1, 3] [0] [])) ≤ 62 ∧
      polyB (sampled [1, 3] [0] []) = [0#6] := by decide +kernel

theorem witness_RsEuclidSolvesTheKeyEquation_refused :
    (22#6).toNat > 21 ∧ deg (polyA (sampled (List.replicate 21 0 ++ [1]) [] [])) > 20 := by
  decide +kernel
theorem witness_RsEuclidSolvesTheKeyEquation :
    ConstantsLegal (sampled (List.replicate 21 5) [] []).const ∧ (21#6).toNat ≤ 21 ∧
      deg (polyA (sampled (List.replicate 21 5) [] [])) = 20 ∧
      deg (polyA (sampled (List.replicate 21 5) [] [])) ≤ (21 + (21#6).toNat + 1) / 2 - 1 :=
  ⟨sampled_legal _ _ _, by decide, by decide +kernel, by decide +kernel⟩

theorem witness_RsEuclidFollowsTheRecurrences :
    (sampled (List.replicate 21 5) [] []).ready = true ∧
      ConstantsLegal (sampled (List.replicate 21 5) [] []).const ∧ (0#6).toNat ≤ 21 ∧
      deg (polyA (sampled (List.replicate 21 5) [] [])) = 20 ∧
      ¬ EuclidStops (0#6).toNat (polyA (sampled (List.replicate 21 5) [] [])) [1#6] :=
  ⟨rfl, sampled_legal _ _ _, by decide, by decide +kernel,
    fun h => absurd h.1 (by decide +kernel)⟩

theorem witness_RsRootsFindsTheSimpleRoots :
    (sampled [1, 1] [] []).ready = true ∧ ConstantsLegal (sampled [1, 1] [] []).const ∧
      polyA (sampled [1, 1] [] []) ≠ [0#6] := ⟨rfl, sampled_legal _ _ _, by decide +kernel⟩

theorem witness_RsForneyComputesTheMagnitudes_fails :
    coef (polyA (sampled [0, 1] [0] [])) 0 = 0#6 ∧
      deg (polyB (sampled [1, 1] [0, 1] [])) = deg (polyA (sampled [1, 1] [0, 1] [])) := by
  decide +kernel
theorem witness_RsForneyComputesTheMagnitudes :
    ConstantsLegal (sampled [43, 43] [1] []).const ∧
      coef (polyA (sampled [43, 43] [1] [])) 0 ≠ 0#6 ∧
      deg (polyB (sampled [43, 43] [1] [])) < deg (polyA (sampled [43, 43] [1] [])) :=
  ⟨sampled_legal _ _ _, by decide +kernel, by decide +kernel⟩

theorem witness_RsDecResponseForm :
    State.reset.ready = true ∧ State.reset.ports.la ≠ 63#6 ∧
      ∃ t, exec .rsDec State.reset = .next t := ⟨rfl, by decide, _, rfl⟩

theorem witness_RsDecFastPath :
    erased22.ready = true ∧ erased22.ports.la = 63#6 ∧
      ∀ j < 21, maskedSyndrome erased22 (j + 1) = 0#6 :=
  ⟨rfl, by decide +kernel, by decide +kernel⟩

/-- A 3 at position 40, positions 0 to 21 erased. -/
def overCapacity : State :=
  sampled (List.replicate 40 0 ++ [3] ++ List.replicate 22 0) [] (List.range 22)

theorem witness_RsDecCapacityExceeded :
    overCapacity.ready = true ∧ overCapacity.ports.la = 63#6 ∧
      (∃ j < 21, maskedSyndrome overCapacity (j + 1) ≠ 0#6) ∧
      markedCount overCapacity.ports.em = 22 :=
  ⟨rfl, by decide +kernel, ⟨0, by decide, by decide +kernel⟩, by decide +kernel⟩

theorem witness_RsDecIsTheStagedDecode :
    oneError.ready = true ∧ oneError.ports.la = 63#6 ∧
    Answers .rsSynd oneError
      { status := .ok, vr := some (List.replicate 21 5), fr := some false } ∧
    Answers .rsErasloc oneError { status := .ok, vr := some [1], cr := some 0 } ∧
    Answers .rsModsynd (putB (putA oneError [1]) (List.replicate 21 5))
      { status := .ok, vr := some (List.replicate 21 5) } ∧
    Answers (.rsEuclid 0) (putA oneError (List.replicate 21 5))
      { status := .ok, vq := some [43, 43], vr := some [1] } ∧
    Answers .pMul (putB (putA oneError [43, 43]) [1]) { status := .ok, vr := some [43, 43] } ∧
    Answers .rsForney (putB (putA oneError [43, 43]) [1])
      { status := .ok, vr := some (5 :: List.replicate 62 0), rm := some (mask [0]),
        cr := some 1 } :=
  ⟨rfl, by decide +kernel, answers_of_check (by decide +kernel),
    answers_of_check (by decide +kernel), answers_of_check (by decide +kernel),
    answers_of_check (by decide +kernel), answers_of_check (by decide +kernel),
    answers_of_check (by decide +kernel)⟩

/-- The 21 coefficients of the product of `x + α^j`, `j = 1, …, 20`: of its 21 syndromes the last
alone is not zero. -/
def uncorrectable : State :=
  sampled ([59, 23, 19, 31, 33, 38, 17, 22, 48, 15, 36, 57, 37, 22, 8, 27, 33, 11, 44, 23, 1] ++
    List.replicate 42 0) [] []

theorem witness_RsDecIsTheStagedDecode_fails :
    uncorrectable.ready = true ∧ uncorrectable.ports.la = 63#6 ∧
    Answers .rsSynd uncorrectable
      { status := .ok, vr := some (List.replicate 20 0 ++ [16]), fr := some false } ∧
    Answers .rsErasloc uncorrectable { status := .ok, vr := some [1], cr := some 0 } ∧
    Answers .rsModsynd (putB (putA uncorrectable [1]) (List.replicate 20 0 ++ [16]))
      { status := .ok, vr := some (List.replicate 20 0 ++ [16]) } ∧
    Answers (.rsEuclid 0) (putA uncorrectable (List.replicate 20 0 ++ [16]))
      { status := .ok, vq := some [0, 61], vr := some [0] } ∧
    Answers .pMul (putB (putA uncorrectable [0, 61]) [1])
      { status := .ok, vr := some [0, 61] } ∧
    Answers .rsForney (putB (putA uncorrectable [0, 61]) [0]) { status := .decodeFailure } :=
  ⟨rfl, by decide +kernel, answers_of_check (by decide +kernel),
    answers_of_check (by decide +kernel), answers_of_check (by decide +kernel),
    answers_of_check (by decide +kernel), answers_of_check (by decide +kernel),
    answers_of_check (by decide +kernel)⟩

/-- Vector T6 of 95_test_vectors.md section 3.4: 12 errors on the zero codeword. -/
def miscounted : State :=
  sampled ([55] ++ List.replicate 6 0 ++ [30] ++ List.replicate 2 0 ++ [31, 0, 22] ++
    List.replicate 4 0 ++ [1] ++ List.replicate 5 0 ++ [24, 60] ++ List.replicate 5 0 ++ [47] ++
    List.replicate 2 0 ++ [35] ++ List.replicate 16 0 ++ [25] ++ List.replicate 3 0 ++ [45] ++
    List.replicate 2 0 ++ [24] ++ List.replicate 5 0) [] []

/-- The syndromes vector T6 prints, and its combined locator and evaluator. -/
def t6S : Poly :=
  [22, 36, 23, 52, 15, 53, 24, 55, 2, 62, 56, 27, 53, 30, 46, 27, 52, 48, 57, 36, 31]
def t6V : Poly := [12, 53, 44, 57, 61, 36, 60, 44, 22, 47, 55]
def t6R : Poly := [45, 5, 14, 43, 47, 19, 9, 44, 40, 4]

/-- The branch in which the count of roots, 0, is not the combined locator's degree, 10. -/
theorem witness_RsDecIsTheStagedDecode_miscounts :
    miscounted.ready = true ∧ miscounted.ports.la = 63#6 ∧
    Answers .rsSynd miscounted { status := .ok, vr := some t6S, fr := some false } ∧
    Answers .rsErasloc miscounted { status := .ok, vr := some [1], cr := some 0 } ∧
    Answers .rsModsynd (putB (putA miscounted [1]) t6S) { status := .ok, vr := some t6S } ∧
    Answers (.rsEuclid 0) (putA miscounted t6S)
      { status := .ok, vq := some t6V, vr := some t6R } ∧
    Answers .pMul (putB (putA miscounted t6V) [1]) { status := .ok, vr := some t6V } ∧
    Answers .rsForney (putB (putA miscounted t6V) t6R)
      { status := .ok, vr := some (List.replicate 63 0), rm := some (mask []), cr := some 0 } ∧
    (0#6).toNat ≠ deg t6V :=
  ⟨rfl, by decide +kernel, answers_of_check (by decide +kernel),
    answers_of_check (by decide +kernel), answers_of_check (by decide +kernel),
    answers_of_check (by decide +kernel), answers_of_check (by decide +kernel),
    answers_of_check (by decide +kernel), by decide⟩

theorem witness_DecodingAnEncodedMessageReturnsIt :
    encoding.ready = true ∧ ConstantsLegal encoding.const ∧ encoding.ports.la = 42#6 :=
  ⟨rfl, sampled_legal _ _ _, encoding_la⟩

/-- Ten errors and one erasure on the all-zero codeword: at the bound. -/
def atBound : State := sampled (List.replicate 11 1 ++ List.replicate 52 0) [] [0]

theorem witness_CorrectionWithinTheBound :
    atBound.ready = true ∧ ConstantsLegal atBound.const ∧ atBound.ports.la = 63#6 ∧
      IsCodeword atBound.const (Vector.replicate 63 0#6) ∧
      2 * errorCount atBound (Vector.replicate 63 0#6) + markedCount atBound.ports.em = 21 :=
  ⟨rfl, sampled_legal _ _ _, by decide +kernel, by unfold IsCodeword; decide +kernel,
    by decide +kernel⟩

theorem witness_SuccessfulDecodesAreCodewords :
    ConstantsLegal oneError.const ∧
      ∃ t, exec .rsDec oneError = .next t ∧
        t.resp = some { status := .ok, fr := some true, vr := some (List.replicate 63 0) } :=
  ⟨sampled_legal _ _ _, _, test_rsDec_corrects, rfl⟩

end Sys2Proof.Tests
end

section
/-!
PROOFS. The canonical form (10_state.md R32, R33): a canonical polynomial is determined by its
coefficients, and one put on a vector port is read from there again.
-/

namespace Sys2Proof.Machine

open Sys2Proof.Safety

theorem length_pos_of_canonical {p : Poly} (hp : Poly.canonical p = true) : 0 < p.length := by
  cases p with
  | nil => cases hp
  | cons c cs => exact Nat.succ_pos _

theorem deg_add_one_of_canonical {p : Poly} (hp : Poly.canonical p = true) :
    deg p + 1 = p.length :=
  Nat.sub_add_cancel (length_pos_of_canonical hp)

theorem lead_eq_getLastD (p : Poly) : lead p = p.getLastD 0#6 := by
  rw [List.getLastD_eq_getLast?, List.getLast?_eq_getElem?, ← List.getD_eq_getElem?_getD]
  rfl

theorem lead_ne_zero_of_canonical {p : Poly} (hp : Poly.canonical p = true)
    (hl : 1 < p.length) : lead p ≠ 0#6 := by
  have hlast : p.length = 1 ∨ p.getLastD 0#6 ≠ 0#6 := by
    simpa only [Bool.or_eq_true, beq_iff_eq, bne_iff_ne] using (Bool.and_eq_true_iff.mp hp).2
  rw [lead_eq_getLastD]
  exact hlast.resolve_left hl.ne'

/-- A canonical polynomial is the shortest nonempty sequence with its coefficients. -/
theorem length_le_of_canonical_of_coef_eq {p q : List Sym} (hp : Poly.canonical p = true)
    (hq : 0 < q.length) (h : ∀ i, coef p i = coef q i) : p.length ≤ q.length := by
  by_contra hlt
  have hlead : lead p = 0#6 := by
    rw [lead, h, coef_of_length_le (by unfold deg; omega)]
  exact lead_ne_zero_of_canonical hp (by omega) hlead

/-- Two canonical polynomials with the same coefficients are the same sequence. -/
theorem eq_of_canonical_of_coef_eq {p q : Poly} (hp : Poly.canonical p = true)
    (hq : Poly.canonical q = true) (h : ∀ i, coef p i = coef q i) : p = q := by
  have hpq := length_le_of_canonical_of_coef_eq hp (length_pos_of_canonical hq) h
  have hqp := length_le_of_canonical_of_coef_eq hq (length_pos_of_canonical hp) fun i =>
    (h i).symm
  refine List.ext_getElem (hpq.antisymm hqp) fun i hi hi' => ?_
  rw [← coef_of_lt hi, h, coef_of_lt hi']

theorem eq_norm_of_canonical {p : Poly} {s : List Sym} (hp : Poly.canonical p = true)
    (h : ∀ i, coef p i = coef s i) : p = norm s :=
  eq_of_canonical_of_coef_eq hp (canonical_norm s) fun i => by rw [h, coef_norm]

theorem norm_of_canonical {p : Poly} (hp : Poly.canonical p = true) : norm p = p :=
  (eq_norm_of_canonical hp fun _ => rfl).symm

/-! ### A polynomial on a vector port -/

theorem coef_padWord (p : Poly) {i : Nat} (hi : i < 63) : coef (padWord p).toList i = coef p i := by
  rw [coef_of_lt (by simpa using hi)]
  simp [padWord]

/-- The valid entries of a port a sequence was padded onto are the sequence. -/
theorem take_padWord {p : Poly} (hl : p.length ≤ 63) : (padWord p).toList.take p.length = p := by
  refine List.ext_getElem (by simpa using hl) fun i _ hi => ?_
  rw [List.getElem_take, ← coef_of_lt, coef_padWord p (hi.trans_le hl), coef_of_lt hi]

theorem putA_la_toNat (s : State) {p : Poly} (hl : p.length ≤ 63) :
    (putA s p).ports.la.toNat = p.length :=
  Nat.mod_eq_of_lt (Nat.lt_succ_of_le hl)

theorem vaAt_putA (s : State) (p : Poly) {i : Nat} (hi : i < 63) :
    vaAt (putA s p) i = coef p i :=
  coef_padWord p hi

theorem polyA_putA (s : State) {p : Poly} (hp : Poly.canonical p = true) (hl : p.length ≤ 63) :
    polyA (putA s p) = p := by
  have hva : (putA s p).ports.va = padWord p := rfl
  rw [polyA, inPoly, putA_la_toNat s hl, hva, take_padWord hl, norm_of_canonical hp]

/-- Settles O28: `norm` is the one canonical form, since a canonical polynomial is determined by its
coefficients; the valid entries of the port are the polynomial itself. -/
theorem normIsTheCanonicalForm : Obligations.NormIsTheCanonicalForm := by
  refine ⟨fun s => ⟨canonical_norm s, coef_norm s, fun p => eq_norm_of_canonical,
    norm_of_canonical (canonical_norm s)⟩, rfl, fun s p hp hl => ?_⟩
  have hdeg := deg_add_one_of_canonical hp
  exact ⟨(putA_la_toNat s hl).trans hdeg.symm, fun i hi => vaAt_putA s p (by omega),
    polyA_putA s hp hl⟩

end Sys2Proof.Machine
end

section
/-!
PROOFS. What a response depends on (20_memory.md R58): two transactions whose ports agree on the
operands an operation reads (30_encoding.md R72, R77) hand it the same operands, so it computes the
same result for both.
-/

namespace Sys2Proof.Machine

open Sys2Proof.Safety

/-! ### Ports that agree carry the same operand -/

theorem take_toList_eq_of_coef_eq {v w : Word63} {n : Nat}
    (h : ∀ i < n, coef v.toList i = coef w.toList i) : v.toList.take n = w.toList.take n := by
  refine List.ext_getElem (by simp) fun i hi hi' => ?_
  have hin : i < n := hi.trans_le (List.length_take_le _ _)
  rw [List.getElem_take, List.getElem_take, ← coef_of_lt, h i hin, coef_of_lt]

theorem word_eq_of_coef_eq {v w : Word63}
    (h : ∀ i < 63, coef v.toList i = coef w.toList i) : v = w := by
  have htake := take_toList_eq_of_coef_eq h
  rw [List.take_of_length_le (by simp), List.take_of_length_le (by simp)] at htake
  exact Vector.toList_inj.mp htake

theorem inPoly_eq_of_coef_eq {n : BitVec 6} {v w : Word63}
    (h : ∀ i < n.toNat, coef v.toList i = coef w.toList i) : inPoly n v = inPoly n w := by
  rw [inPoly, inPoly, take_toList_eq_of_coef_eq h]

theorem polyA_eq_of_agreeOn {f : Format} {s t : State} (h : AgreeOn f s t) (hss : f ≠ .ss)
    (hm : f ≠ .m) : polyA s = polyA t := by
  obtain ⟨hla, hva⟩ := h.1 hss hm
  rw [polyA, polyA, ← hla]
  exact inPoly_eq_of_coef_eq hva

theorem polyB_eq_of_agreeOn {s t : State} (h : AgreeOn .pp s t) : polyB s = polyB t := by
  obtain ⟨-, hB, -⟩ := h
  obtain ⟨hlb, hvb⟩ := hB rfl
  rw [polyB, polyB, ← hlb]
  exact inPoly_eq_of_coef_eq hvb

/-- A received word of full length agrees at every position, so masking it gives the same word. -/
theorem maskedWord_eq_of_agreeOn {s t : State} (h : AgreeOn .wm s t)
    (hlen : s.ports.la.toNat = codeLength) : maskedWord s = maskedWord t := by
  obtain ⟨hA, -, hem⟩ := h
  have hva : s.ports.va = t.ports.va :=
    word_eq_of_coef_eq fun i hi => (hA nofun nofun).2 i (hi.trans_eq hlen.symm)
  rw [maskedWord, maskedWord, hva, hem (.inr rfl)]

/-! ### The same result gives the same response -/

/-- An operation that computes the same result in two states answers both alike: of the state
itself, delivering the response reads `READY` alone. -/
theorem answers_of_result_eq {i : Instr} {s t : State} {r : Response} {f : Status → Response}
    {result : State → Except Abort Response} (hready : s.ready = t.ready)
    (hexec : ∀ u, exec i u = finishWith f u (result u)) (hresult : result s = result t)
    (h : Answers i s r) : Answers i t r := by
  rw [Answers, hexec] at h ⊢
  rw [← hresult]
  obtain ⟨hs, ⟨q, hq, hresp⟩ | ⟨c, hc, hresp⟩⟩ := finishWith_next h
  · obtain rfl : r = q := Option.some.inj (congrArg State.resp hresp)
    rw [hq, finishWith_ok (hready ▸ hs)]
  · obtain rfl : r = f c := Option.some.inj (congrArg State.resp hresp)
    rw [hc, finishWith_raise (hready ▸ hs)]

/-- The case of an operation that raises no status. -/
theorem answers_of_response_eq {i : Instr} {s t : State} {r : Response}
    {response : State → Response} (hready : s.ready = t.ready)
    (hexec : ∀ u, exec i u = deliver u (response u)) (hresponse : response s = response t)
    (h : Answers i s r) : Answers i t r :=
  answers_of_result_eq (f := Response.failed) (result := fun u => .ok (response u)) hready hexec
    (congrArg Except.ok hresponse) h

/-- Settles O17, by the format of the operation: agreeing ports carry the same operands, and the
operations on words read them only when the length is the one they need. -/
theorem responsesDependOnTheNamedPorts : Obligations.ResponsesDependOnTheNamedPorts := by
  intro i s t hready hconst hagree r
  cases i with
  | gfAdd a b | gfMul a b =>
    exact answers_of_response_eq hready (fun _ => rfl) (by simp only [hconst])
  | gfDiv a b =>
    exact answers_of_result_eq hready (fun _ => rfl) (by simp only [hconst])
  | pAdd | pMul | pDivmod | rsModsynd | rsForney =>
    have hA := polyA_eq_of_agreeOn hagree nofun nofun
    have hB := polyB_eq_of_agreeOn hagree
    exact answers_of_result_eq hready (fun _ => rfl) (by simp only [hconst, hA, hB])
  | pEval x | pIszero | rsRoots =>
    have hA := polyA_eq_of_agreeOn hagree nofun nofun
    exact answers_of_response_eq hready (fun _ => rfl) (by simp only [hconst, hA])
  | pSmul n | pTrunc n | rsEuclid n | pDeriv =>
    have hA := polyA_eq_of_agreeOn hagree nofun nofun
    exact answers_of_result_eq hready (fun _ => rfl) (by simp only [hconst, hA])
  | rsErasloc =>
    have hem := hagree.2.2 (.inl rfl)
    exact answers_of_result_eq hready (fun _ => rfl) (by simp only [hconst, hem])
  | rsSynd | rsDec =>
    have hla := (hagree.1 nofun nofun).1
    have hem := hagree.2.2 (.inr rfl)
    refine answers_of_result_eq hready (fun _ => rfl)
      (ite_congr (by rw [hla]) (fun _ => rfl) fun hlen => ?_)
    have hw := maskedWord_eq_of_agreeOn hagree (hla ▸ not_not.mp hlen)
    simp only [hconst, hem, hw]
  | rsEnc =>
    obtain ⟨hla, hva⟩ := hagree.1 nofun nofun
    refine answers_of_result_eq hready (fun _ => rfl)
      (ite_congr (by rw [hla]) (fun _ => rfl) fun hlen => ?_)
    have hmessage := take_toList_eq_of_coef_eq ((hla ▸ not_not.mp hlen) ▸ hva)
    simp only [hconst, hmessage]

end Sys2Proof.Machine
end

section
/-!
PROOFS. Legal command words (30_encoding.md R74, R75, R80): what the decoder tests field by field is
what a row of the opcode table tests with its mask, so a word no row matches is answered with
`ILLEGAL_COMMAND`.
-/

namespace Sys2Proof

open Sys2Proof.Safety

/-! ### What the decoder accepts -/

/-- The fields a format leaves unused are 0: the reserved ones and the scalars it does not read
(30_encoding.md R74). -/
def Format.UnusedClear (f : Format) (w : Cmd) : Prop :=
  w.z1 = 0#10 ∧ w.z0 = 0#2 ∧ (f.readsA = false → w.a = 0#6) ∧ (f.readsB = false → w.b = 0#6)

theorem OpRow.eq_of_op_eq {r s : OpRow} (hr : r ∈ opcodeMap) (hs : s ∈ opcodeMap)
    (h : r.op = s.op) : r = s :=
  List.inj_on_of_nodup_map (List.pairwise_map.mpr opcodeMap_distinct) hr hs h

/-- Looking a code up finds the row that has it, since no other row does. -/
theorem find?_opcodeMap_eq_some_iff {op : BitVec 8} {row : OpRow} :
    opcodeMap.find? (fun r => r.op == op) = some row ↔ row ∈ opcodeMap ∧ row.op = op := by
  have hfound : ∀ {found}, opcodeMap.find? (fun r => r.op == op) = some found →
      found ∈ opcodeMap ∧ found.op = op := fun h =>
    ⟨List.mem_of_find?_eq_some h,
      beq_iff_eq.mp (List.find?_some (p := fun r : OpRow => r.op == op) h)⟩
  refine ⟨hfound, fun ⟨hmem, hop⟩ => ?_⟩
  have hsome : (opcodeMap.find? (fun r => r.op == op)).isSome :=
    List.find?_isSome.mpr ⟨row, hmem, beq_iff_eq.mpr hop⟩
  obtain ⟨found, hfind⟩ := Option.isSome_iff_exists.mp hsome
  obtain ⟨hmem', hop'⟩ := hfound hfind
  rw [hfind, OpRow.eq_of_op_eq hmem' hmem (hop'.trans hop.symm)]

/-- The decoder accepts a word by the row of its code, if the fields the row's format leaves unused
are 0. -/
theorem decode_eq_ok_iff {w : Cmd} {i : Instr} :
    decode w = .ok i ↔
      ∃ row ∈ opcodeMap, row.op = w.op ∧ row.format.UnusedClear w ∧ row.make w.a w.b = i := by
  constructor
  · intro h
    unfold decode at h
    split at h
    case h_1 => cases h
    case h_2 row hfind =>
      obtain ⟨hmem, hop⟩ := find?_opcodeMap_eq_some_iff.mp hfind
      split_ifs at h with hreserved hunread
      refine ⟨row, hmem, hop, ?_, Except.ok.inj h⟩
      unfold Format.UnusedClear
      tauto
  · rintro ⟨row, hmem, hop, ⟨hz1, hz0, ha, hb⟩, rfl⟩
    have hreserved : ¬ (w.z1 ≠ 0#10 ∨ w.z0 ≠ 0#2) := by tauto
    have hunread : ¬ ((row.format.readsA = false ∧ w.a ≠ 0#6) ∨
        (row.format.readsB = false ∧ w.b ≠ 0#6)) := by tauto
    rw [decode, find?_opcodeMap_eq_some_iff.mpr ⟨hmem, hop⟩]
    exact (if_neg hreserved).trans (if_neg hunread)

theorem exists_decode_eq_ok_iff (w : Cmd) :
    (∃ i, decode w = .ok i) ↔
      ∃ row ∈ opcodeMap, row.op = w.op ∧ row.format.UnusedClear w := by
  constructor
  · rintro ⟨i, h⟩
    obtain ⟨row, hmem, hop, hclear, -⟩ := decode_eq_ok_iff.mp h
    exact ⟨row, hmem, hop, hclear⟩
  · rintro ⟨row, hmem, hop, hclear⟩
    exact ⟨_, decode_eq_ok_iff.mpr ⟨row, hmem, hop, hclear, rfl⟩⟩

/-! ### What a row's mask tests -/

/-- The bits of a scalar field that must be 0: all of them unless the format reads it. -/
def unreadBits (reads : Bool) : Sym := if reads then 0#6 else BitVec.allOnes 6

/-- The mask of a format's rows: `OP`, the reserved fields and the scalars it does not read
(30_encoding.md R80). -/
def Format.mask (f : Format) : Cmd :=
  BitVec.allOnes 8 ++ BitVec.allOnes 10 ++ unreadBits f.readsB ++ BitVec.allOnes 2 ++
    unreadBits f.readsA

theorem and_unreadBits_eq_zero_iff (x : Sym) (reads : Bool) :
    x &&& unreadBits reads = 0#6 ↔ (reads = false → x = 0#6) := by
  cases reads with
  | false => simp [unreadBits, -BitVec.reduceAllOnes]
  | true => simp [unreadBits]

/-- The opcode table's rows are those of the opcode map, each with the mask of its format. -/
theorem tableRows_eq_map :
    tableRows = opcodeMap.map fun row => (cmdWord row.op 0#6 0#6, row.format.mask) := rfl

theorem Format.mask_fields (f : Format) :
    f.mask.op = BitVec.allOnes 8 ∧ f.mask.z1 = BitVec.allOnes 10 ∧
      f.mask.b = unreadBits f.readsB ∧ f.mask.z0 = BitVec.allOnes 2 ∧
      f.mask.a = unreadBits f.readsA := by
  cases f <;> exact ⟨rfl, rfl, rfl, rfl, rfl⟩

/-- A word is determined by its five fields (30_encoding.md R70). -/
theorem Cmd.eq_iff_fields_eq (v w : Cmd) :
    v = w ↔ v.op = w.op ∧ v.z1 = w.z1 ∧ v.b = w.b ∧ v.z0 = w.z0 ∧ v.a = w.a := by
  refine ⟨fun h => by simp [h], fun h => BitVec.eq_of_toNat_eq ?_⟩
  simp only [Cmd.op, Cmd.z1, Cmd.b, Cmd.z0, Cmd.a, ← BitVec.toNat_inj, field_toNat] at h
  have hv := v.isLt
  have hw := w.isLt
  omega

/-! Masking a word masks each of its fields. -/

theorem Cmd.op_and (v w : Cmd) : Cmd.op (v &&& w) = v.op &&& w.op := BitVec.extractLsb'_and
theorem Cmd.z1_and (v w : Cmd) : Cmd.z1 (v &&& w) = v.z1 &&& w.z1 := BitVec.extractLsb'_and
theorem Cmd.b_and (v w : Cmd) : Cmd.b (v &&& w) = v.b &&& w.b := BitVec.extractLsb'_and
theorem Cmd.z0_and (v w : Cmd) : Cmd.z0 (v &&& w) = v.z0 &&& w.z0 := BitVec.extractLsb'_and
theorem Cmd.a_and (v w : Cmd) : Cmd.a (v &&& w) = v.a &&& w.a := BitVec.extractLsb'_and

/-- Masked with its format's mask, a word is a row's match exactly if it has the row's code and the
fields the format leaves unused are 0. -/
theorem and_mask_eq_iff (w : Cmd) (op : BitVec 8) (f : Format) :
    w &&& f.mask = cmdWord op 0#6 0#6 ↔ op = w.op ∧ f.UnusedClear w := by
  obtain ⟨hop, hz1, hb, hz0, ha⟩ := f.mask_fields
  rw [Cmd.eq_iff_fields_eq, Cmd.op_and, Cmd.z1_and, Cmd.b_and, Cmd.z0_and, Cmd.a_and, hop, hz1,
    hb, hz0, ha, cmdWord_op, cmdWord_z1, cmdWord_b, cmdWord_z0, cmdWord_a, BitVec.and_allOnes,
    BitVec.and_allOnes, BitVec.and_allOnes, and_unreadBits_eq_zero_iff,
    and_unreadBits_eq_zero_iff, Format.UnusedClear]
  tauto

/-- A word is legal exactly if it matches a row of the opcode table (30_encoding.md R74, R75). -/
theorem exists_decode_eq_ok_iff_matches (w : Cmd) :
    (∃ i, decode w = .ok i) ↔ ∃ row ∈ tableRows, w &&& row.2 = row.1 := by
  simp only [exists_decode_eq_ok_iff, tableRows_eq_map, List.mem_map, exists_exists_and_eq_and,
    and_mask_eq_iff]

end Sys2Proof

namespace Sys2Proof.Machine

theorem transact_of_decode_error {s : State} {r : Request} {e : DecodeError}
    (hready : s.ready = true) (h : decode r.cmd = .error e) :
    transact s r = .next { s with ports := r, resp := some { status := .illegalCommand } } := by
  rw [transact, runCommand, h]
  exact deliver_of_ready (s := samplePorts s r) hready _

/-- Settles O3: the decoder's tests on the fields are the masked comparison with a row, and a word
that fails them is answered with the status alone. -/
theorem illegalWordsAreAnsweredSo : Obligations.IllegalWordsAreAnsweredSo := by
  refine ⟨exists_decode_eq_ok_iff_matches, fun s r hready hnone => ?_⟩
  cases hdecode : decode r.cmd with
  | error e => exact transact_of_decode_error hready hdecode
  | ok i =>
    obtain ⟨row, hmem, hmatch⟩ := (exists_decode_eq_ok_iff_matches r.cmd).mp ⟨i, hdecode⟩
    exact absurd hmatch (hnone row hmem)

end Sys2Proof.Machine
end

section
/-!
PROOFS. The tables of legal parameters (10_state.md R22, R23): the powers of alpha are nonzero and
distinct, so each of the 63 nonzero symbols is one of them and `LOG` finds its exponent.
-/

namespace Sys2Proof.Machine

open Sys2Proof.Safety

/-! ### The construction of `POW` -/

theorem paramsLegal_iff (p : Params) :
    paramsLegal p = true ↔
      p.primPoly.getLsbD 6 = true ∧ alphaSteps p.primPoly 63 1#7 = 1#7 ∧
        (powValues p.primPoly 63 1#7).Nodup ∧ p.genScale ≠ 0#6 := by
  simp only [paramsLegal, Bool.and_eq_true, beq_iff_eq, bne_iff_ne, decide_eq_true_eq, and_assoc]

theorem alphaSteps_add (q : BitVec 7) (m n : Nat) (v : BitVec 7) :
    alphaSteps q (m + n) v = alphaSteps q n (alphaSteps q m v) := by
  induction m generalizing v with
  | zero => rw [Nat.zero_add]; rfl
  | succ m ih => rw [Nat.succ_add]; exact ih _

theorem timesAlpha_zero (q : BitVec 7) : timesAlpha q 0#7 = 0#7 := by simp [timesAlpha]

theorem alphaSteps_zero_value (q : BitVec 7) (n : Nat) : alphaSteps q n 0#7 = 0#7 := by
  induction n with
  | zero => rfl
  | succ n ih => rw [alphaSteps, timesAlpha_zero, ih]

/-- A mask of degree 6 reduces every step to six bits. -/
theorem timesAlpha_msb {q : BitVec 7} (hq : q.getLsbD 6 = true) (v : BitVec 7) :
    (timesAlpha q v).getLsbD 6 = false := by
  unfold timesAlpha
  split
  case isTrue h => rw [BitVec.getLsbD_xor, h, hq]; rfl
  case isFalse h => exact Bool.eq_false_iff.mpr h

theorem alphaSteps_msb {q v : BitVec 7} (hq : q.getLsbD 6 = true) (hv : v.getLsbD 6 = false)
    (n : Nat) : (alphaSteps q n v).getLsbD 6 = false := by
  induction n generalizing v with
  | zero => exact hv
  | succ n ih => exact ih (timesAlpha_msb hq v)

theorem eq_zero_of_setWidth_eq_zero {v : BitVec 7} (h : v.setWidth 6 = 0#6)
    (hv : v.getLsbD 6 = false) : v = 0#7 := by
  decide +revert

theorem length_powValues (q : BitVec 7) (n : Nat) (v : BitVec 7) :
    (powValues q n v).length = n := by
  induction n generalizing v with
  | zero => rfl
  | succ n ih => rw [powValues, List.length_cons, ih]

theorem getElem_powValues (q : BitVec 7) {n e : Nat} (v : BitVec 7)
    (he : e < (powValues q n v).length) :
    (powValues q n v)[e] = (alphaSteps q e v).setWidth 6 := by
  induction n generalizing v e with
  | zero => cases he
  | succ n ih => cases e with
    | zero => rfl
    | succ e => exact ih _ _

theorem powAt_build (p : Params) (e : Fin 63) :
    powAt (Constants.build p) e =
      (powValues p.primPoly 63 1#7)[e.val]'(by rw [length_powValues]; exact e.isLt) := by
  rw [← List.getD_eq_getElem _ 0#6]
  simp [powAt, Constants.build, buildPow]

/-! ### `POW` holds each nonzero symbol once -/

variable {K : Constants}

theorem powAt_zero (hK : ConstantsLegal K) : powAt K 0 = 1#6 := by
  obtain ⟨p, -, rfl⟩ := hK
  rw [powAt_build]
  rfl

/-- From 0 the construction would never return to 1. -/
theorem powAt_ne_zero (hK : ConstantsLegal K) (e : Fin 63) : powAt K e ≠ 0#6 := by
  obtain ⟨p, hp, rfl⟩ := hK
  obtain ⟨hdegree, hreturn, -⟩ := (paramsLegal_iff p).mp hp
  intro h
  rw [powAt_build, getElem_powValues] at h
  have hvalue : alphaSteps p.primPoly e 1#7 = 0#7 :=
    eq_zero_of_setWidth_eq_zero h (alphaSteps_msb hdegree rfl e)
  have hsplit := alphaSteps_add p.primPoly e (63 - e) 1#7
  rw [hvalue, alphaSteps_zero_value, Nat.add_sub_cancel' e.isLt.le, hreturn] at hsplit
  cases hsplit

theorem powAt_injective (hK : ConstantsLegal K) : Function.Injective (powAt K) := by
  obtain ⟨p, hp, rfl⟩ := hK
  obtain ⟨-, -, hnodup, -⟩ := (paramsLegal_iff p).mp hp
  intro d e h
  rw [powAt_build, powAt_build] at h
  exact Fin.ext (hnodup.getElem_inj_iff.mp h)

/-- A nonzero symbol is determined by the index of its entry in `LOG`. -/
theorem eq_of_toNat_sub_one_eq {x y : Sym} (hx : x ≠ 0#6) (hy : y ≠ 0#6)
    (h : x.toNat - 1 = y.toNat - 1) : x = y := by
  bv_omega

/-- Where `LOG` keeps the entry of the power `POW[e]`. -/
def logIndex (hK : ConstantsLegal K) (e : Fin 63) : Fin 63 :=
  ⟨(powAt K e).toNat - 1, log_index_lt _ (powAt_ne_zero hK e)⟩

theorem logIndex_injective (hK : ConstantsLegal K) : Function.Injective (logIndex hK) :=
  fun d e h => powAt_injective hK
    (eq_of_toNat_sub_one_eq (powAt_ne_zero hK d) (powAt_ne_zero hK e) (Fin.mk.inj h))

/-- The 63 powers take 63 indices of `LOG`, so every index is taken by one. -/
theorem exists_powAt_eq (hK : ConstantsLegal K) {x : Sym} (hx : x ≠ 0#6) :
    ∃ e, powAt K e = x := by
  obtain ⟨e, he⟩ := Finite.injective_iff_surjective.mp (logIndex_injective hK)
    ⟨x.toNat - 1, log_index_lt x hx⟩
  exact ⟨e, eq_of_toNat_sub_one_eq (powAt_ne_zero hK e) hx (Fin.mk.inj he)⟩

/-! ### `LOG` is the inverse of `POW` -/

/-- A symbol the table `pow` holds stands at the index the built `LOG` has for it. -/
theorem getElem_getElem_buildLog {pow : Vector Sym 63} {x : Sym} (hx : x ≠ 0#6)
    (h : ∃ e : Fin 63, pow[e] = x) :
    pow[(buildLog pow)[x.toNat - 1]'(log_index_lt x hx)] = x := by
  obtain ⟨e, he⟩ := h
  have hsymbol : BitVec.ofNat 6 (x.toNat - 1 + 1) = x := by bv_omega
  have hfound : ((List.finRange 63).find? fun e => pow[e] == x).isSome :=
    List.find?_isSome.mpr ⟨e, List.mem_finRange e, beq_iff_eq.mpr he⟩
  obtain ⟨d, hd⟩ := Option.isSome_iff_exists.mp hfound
  have hentry : (buildLog pow)[x.toNat - 1]'(log_index_lt x hx) = d := by
    simp only [buildLog, Vector.getElem_ofFn, hsymbol, hd, Option.getD_some]
  have hpower : pow[d] = x := beq_iff_eq.mp (List.find?_some (p := fun e => pow[e] == x) hd)
  exact (congrArg (fun k : Fin 63 => pow[k]) hentry).trans hpower

theorem powAt_logOf (hK : ConstantsLegal K) {x : Sym} (hx : x ≠ 0#6) :
    powAt K (logOf K x hx) = x := by
  have hpower := exists_powAt_eq hK hx
  obtain ⟨p, -, rfl⟩ := hK
  exact getElem_getElem_buildLog hx hpower

theorem logOf_powAt (hK : ConstantsLegal K) (e : Fin 63) :
    logOf K (powAt K e) (powAt_ne_zero hK e) = e :=
  powAt_injective hK (powAt_logOf hK _)

theorem logOf_one (hK : ConstantsLegal K) : logOf K 1#6 (by decide) = 0 := by
  simpa only [powAt_zero hK] using logOf_powAt hK 0

end Sys2Proof.Machine
end

section
/-!
PROOFS. Field arithmetic (40_field.md R100 to R102): multiplying and dividing nonzero symbols adds
and subtracts their logarithms modulo 63.
-/

namespace Sys2Proof

/-- The word of a row, its unread scalars 0, decodes to the row's operation (30_encoding.md R73). -/
theorem decode_cmdWord {row : OpRow} (hrow : row ∈ opcodeMap) {a b : Sym}
    (ha : row.format.readsA = false → a = 0#6) (hb : row.format.readsB = false → b = 0#6) :
    decode (cmdWord row.op a b) = .ok (row.make a b) := by
  refine decode_eq_ok_iff.mpr ⟨row, hrow, (cmdWord_op _ _ _).symm,
    ⟨cmdWord_z1 _ _ _, cmdWord_z0 _ _ _, ?_, ?_⟩, ?_⟩
  · rwa [cmdWord_a]
  · rwa [cmdWord_b]
  · rw [cmdWord_a, cmdWord_b]

end Sys2Proof

namespace Sys2Proof.Machine

open Sys2Proof.Safety

/-! ### The arithmetic in the model's branches -/

theorem gfMul_of_ne_zero (K : Constants) {a b : Sym} (ha : a ≠ 0#6) (hb : b ≠ 0#6) :
    gfMul K a b = alphaPow K ((logOf K a ha).val + (logOf K b hb).val) := by
  rw [gfMul, dif_neg ha, dif_neg hb]

theorem gfDiv_zero_left (K : Constants) {b : Sym} (hb : b ≠ 0#6) : gfDiv K 0#6 b = .ok 0#6 := by
  rw [gfDiv, dif_neg hb, dif_pos rfl]

theorem gfDiv_of_ne_zero_of_ne_zero (K : Constants) {a b : Sym} (ha : a ≠ 0#6) (hb : b ≠ 0#6) :
    gfDiv K a b = .ok (alphaPow K ((logOf K a ha).val + 63 - (logOf K b hb).val)) := by
  rw [gfDiv, dif_neg hb, dif_neg ha]

/-! ### The operations answer it -/

theorem gfMul_answers {s : State} (hs : s.ready = true) {a b q : Sym}
    (hq : gfMul s.const a b = q) : Answers (.gfMul a b) s { status := .ok, sr := some q } :=
  hq ▸ finish_ok hs _

theorem gfDiv_answers {s : State} (hs : s.ready = true) {a b q : Sym}
    (hq : gfDiv s.const a b = .ok q) :
    Answers (.gfDiv a b) s { status := .ok, sr := some q } := by
  rw [Answers, exec, execGfDiv, hq]
  exact finish_ok hs _

/-! ### Laws under legal tables -/

theorem gfMul_comm (K : Constants) (a b : Sym) : gfMul K a b = gfMul K b a := by
  by_cases ha : a = 0#6
  · rw [ha, gfMul_zero_left, gfMul_zero_right]
  by_cases hb : b = 0#6
  · rw [hb, gfMul_zero_left, gfMul_zero_right]
  rw [gfMul_of_ne_zero K ha hb, gfMul_of_ne_zero K hb ha, Nat.add_comm]

variable {K : Constants}

theorem gfMul_ne_zero (hK : ConstantsLegal K) {a b : Sym} (ha : a ≠ 0#6) (hb : b ≠ 0#6) :
    gfMul K a b ≠ 0#6 := by
  rw [gfMul_of_ne_zero K ha hb]
  exact powAt_ne_zero hK _

theorem alphaPow_logOf (hK : ConstantsLegal K) {a : Sym} (ha : a ≠ 0#6) :
    alphaPow K (logOf K a ha).val = a := by
  rw [alphaPow_eq_of_lt K (logOf K a ha).isLt]
  exact powAt_logOf hK ha

theorem alphaPow_add_63 (K : Constants) (e : Nat) : alphaPow K (e + 63) = alphaPow K e := by
  rw [← alphaPow_mod, Nat.add_mod_right, alphaPow_mod]

theorem gfMul_one (hK : ConstantsLegal K) (a : Sym) : gfMul K a 1#6 = a := by
  by_cases ha : a = 0#6
  · rw [ha, gfMul_zero_left]
  rw [gfMul_of_ne_zero K ha (by decide), logOf_one hK, Fin.val_zero, Nat.add_zero,
    alphaPow_logOf hK]

theorem gfDiv_self (hK : ConstantsLegal K) {a : Sym} (ha : a ≠ 0#6) : gfDiv K a a = .ok 1#6 := by
  rw [gfDiv_of_ne_zero_of_ne_zero K ha ha, Nat.add_sub_cancel_left]
  exact congrArg Except.ok (powAt_zero hK)

theorem gfDiv_one (hK : ConstantsLegal K) {a : Sym} (ha : a ≠ 0#6) : gfDiv K a 1#6 = .ok a := by
  rw [gfDiv_of_ne_zero_of_ne_zero K ha (by decide), logOf_one hK, Fin.val_zero, Nat.sub_zero,
    alphaPow_add_63, alphaPow_logOf hK]

/-! ### The obligations -/

/-- Settles O23: the response is the XOR itself, and the word is that of the first row. -/
theorem gfAddIsXor : Obligations.GfAddIsXor := fun a b s hs =>
  ⟨finish_ok hs _, decode_cmdWord (row := ⟨0x10#8, .ss, .gfAdd⟩) (by simp [opcodeMap]) nofun nofun⟩

/-- Settles O24: by the branches of `gf_mul`; 1 is neutral because its logarithm is 0, and a product
of nonzero symbols is a power of alpha. -/
theorem gfMulAddsLogarithms : Obligations.GfMulAddsLogarithms := by
  refine fun s hs => ⟨fun a b hzero => ?_, fun a b ha hb => ?_, fun a b => ?_, fun hK a b =>
    ⟨gfMul_comm _ a b, gfMul_one hK a, gfMul_ne_zero hK⟩⟩
  · obtain rfl | rfl := hzero
    · exact gfMul_answers hs (gfMul_zero_left s.const b)
    · exact gfMul_answers hs (gfMul_zero_right s.const a)
  · exact gfMul_answers hs (gfMul_of_ne_zero s.const ha hb)
  · exact decode_cmdWord (row := ⟨0x11#8, .ss, .gfMul⟩) (by simp [opcodeMap]) nofun nofun

/-- Settles O25: by the branches of `gf_div`; equal logarithms leave the exponent 63, which is 0
modulo 63, and the logarithm of 1 is 0. -/
theorem gfDivSubtractsLogarithms : Obligations.GfDivSubtractsLogarithms := by
  refine fun s hs => ⟨fun a => ?_, fun b hb => ?_, fun a b ha hb => ?_, fun a b => ?_,
    fun hK a ha => ⟨gfDiv_self hK ha, gfDiv_one hK ha⟩⟩
  · exact finish_raise hs .divisionByZero
  · exact gfDiv_answers hs (gfDiv_zero_left s.const hb)
  · exact gfDiv_answers hs (gfDiv_of_ne_zero_of_ne_zero s.const ha hb)
  · exact decode_cmdWord (row := ⟨0x12#8, .ss, .gfDiv⟩) (by simp [opcodeMap]) nofun nofun

end Sys2Proof.Machine
end

section
/-!
PROOFS. Polynomial operands (41_poly.md R120) and the zero polynomial (R130): what a port's operand
is, and how the coefficients of a canonical polynomial bound its length.
-/

namespace Sys2Proof.Machine

open Sys2Proof.Safety

/-! ### Where the coefficients of a canonical polynomial end -/

/-- A canonical polynomial without coefficients from index `n` on is no longer than that. -/
theorem length_le_of_canonical {p : Poly} {n : Nat} (hp : Poly.canonical p = true) (hn : 0 < n)
    (h : ∀ i, n ≤ i → coef p i = 0#6) : p.length ≤ n := by
  by_contra hlt
  exact lead_ne_zero_of_canonical hp (by omega) (h (deg p) (by unfold deg; omega))

/-- The length depends on which coefficients are zero, not on their values. -/
theorem length_eq_of_coef_eq_zero_iff {p q : Poly} (hp : Poly.canonical p = true)
    (hq : Poly.canonical q = true) (h : ∀ i, coef p i = 0#6 ↔ coef q i = 0#6) :
    p.length = q.length :=
  (length_le_of_canonical hp (length_pos_of_canonical hq) fun i hi =>
    (h i).mpr (coef_of_length_le hi)).antisymm
  (length_le_of_canonical hq (length_pos_of_canonical hp) fun i hi =>
    (h i).mp (coef_of_length_le hi))

@[simp] theorem coef_zero_poly (i : Nat) : coef [0#6] i = 0#6 := by
  cases i <;> rfl

theorem eq_zero_iff_of_canonical {p : Poly} (hp : Poly.canonical p = true) :
    p = [0#6] ↔ ∀ i, coef p i = 0#6 :=
  ⟨fun h i => by rw [h, coef_zero_poly],
    fun h => eq_of_canonical_of_coef_eq hp rfl fun i => by rw [h, coef_zero_poly]⟩

theorem norm_eq_zero_iff (v : List Sym) : norm v = [0#6] ↔ ∀ i, coef v i = 0#6 := by
  simp only [eq_zero_iff_of_canonical (canonical_norm v), coef_norm]

theorem coef_of_deg_lt {p : Poly} {i : Nat} (h : deg p < i) : coef p i = 0#6 :=
  coef_of_length_le (by unfold deg at h; omega)

theorem isZero_iff_of_canonical {p : Poly} (hp : Poly.canonical p = true) :
    isZero p = true ↔ p = [0#6] := by
  simp only [isZero, Bool.and_eq_true, beq_iff_eq, eq_zero_iff_of_canonical hp]
  constructor
  · rintro ⟨hdeg, h0⟩ i
    cases i with
    | zero => exact h0
    | succ i => exact coef_of_deg_lt (by omega)
  · intro h
    have hlen := length_le_of_canonical hp Nat.one_pos fun i _ => h i
    exact ⟨Nat.sub_eq_zero_of_le hlen, h 0⟩

theorem lead_ne_zero_of_ne_zero {p : Poly} (hp : Poly.canonical p = true) (h0 : p ≠ [0#6]) :
    lead p ≠ 0#6 := by
  by_cases hlen : 1 < p.length
  · exact lead_ne_zero_of_canonical hp hlen
  · have hdeg : deg p = 0 := Nat.sub_eq_zero_of_le (Nat.le_of_not_lt hlen)
    intro hlead
    refine h0 ((isZero_iff_of_canonical hp).mp ?_)
    rw [lead, hdeg] at hlead
    simp [isZero, hdeg, hlead]

/-! ### The operands -/

theorem canonical_polyA (s : State) : Poly.canonical (polyA s) = true := canonical_norm _

theorem canonical_polyB (s : State) : Poly.canonical (polyB s) = true := canonical_norm _

theorem length_polyA_le (s : State) : (polyA s).length ≤ capacity := (length_inPoly _ _).2

theorem length_polyB_le (s : State) : (polyB s).length ≤ capacity := (length_inPoly _ _).2

theorem coef_inPoly (n : BitVec 6) (v : Word63) (i : Nat) :
    coef (inPoly n v) i = if i < n.toNat then coef v.toList i else 0#6 := by
  rw [inPoly, coef_norm, coef_take]

theorem coef_polyA (s : State) (i : Nat) :
    coef (polyA s) i = if i < s.ports.la.toNat then vaAt s i else 0#6 := coef_inPoly _ _ i

theorem coef_polyB (s : State) (i : Nat) :
    coef (polyB s) i = if i < s.ports.lb.toNat then vbAt s i else 0#6 := coef_inPoly _ _ i

theorem inPoly_length_zero (v : Word63) : inPoly 0#6 v = [0#6] := rfl

theorem polyA_eq_zero_iff (s : State) :
    polyA s = [0#6] ↔ ∀ i < s.ports.la.toNat, vaAt s i = 0#6 := by
  simp only [eq_zero_iff_of_canonical (canonical_polyA s), coef_polyA, ite_eq_right_iff]

/-- Settles O29: an operand is `norm` of the valid entries, which keeps their coefficients. -/
theorem operandsAreNormalisedOnEntry : Obligations.OperandsAreNormalisedOnEntry := by
  refine fun s => ⟨canonical_polyA s, canonical_polyB s, coef_polyA s, coef_polyB s,
    fun h => ?_, fun h => ?_⟩
  · rw [polyA, h, inPoly_length_zero]
  · rw [polyB, h, inPoly_length_zero]

/-- Settles O38: the flag is `is_zero` of the operand, and the operand is `[0]` when every entry it
takes from the port is 0. -/
theorem pIszeroTestsForZero : Obligations.PIszeroTestsForZero := by
  refine ⟨by decide, fun s hs => ?_⟩
  have hflag := isZero_iff_of_canonical (canonical_polyA s)
  exact ⟨isZero (polyA s), finish_ok hs _, hflag, hflag.trans (polyA_eq_zero_iff s)⟩

end Sys2Proof.Machine
end

section
/-!
PROOFS. The operations with one polynomial result (41_poly.md R123 to R125, R128, R129): each
answers `norm` of a sequence of at most 63 coefficients (R121), so its obligation is a statement
about the coefficients of that sequence.
-/

namespace Sys2Proof.Machine

open Sys2Proof.Safety

/-- A polynomial result that fits the port is answered. -/
theorem answers_polyResponse {i : Instr} {s : State} {p : Poly} (hs : s.ready = true)
    (hexec : exec i s = finish s (polyResponse p)) (hp : p.length ≤ capacity) :
    Answers i s { status := .ok, vr := some p } := by
  rw [Answers, hexec, polyResponse, outPoly_ok hp]
  exact finish_ok hs _

/-- `norm` of a sequence that fits the port fits it, since it is no longer unless it is `[0]`. -/
theorem length_norm_le_capacity {v : List Sym} (hv : v.length ≤ capacity) :
    (norm v).length ≤ capacity :=
  (length_norm_le v).trans (max_le hv (by decide))

/-! ### The functions on canonical operands -/

variable {K : Constants} {p q : Poly}

theorem coef_pAdd (p q : Poly) (i : Nat) : coef (pAdd p q) i = coef p i ^^^ coef q i := by
  rw [pAdd, coef_norm, coef_xorSeq]

theorem length_pAdd_le (hp : p.length ≤ capacity) (hq : q.length ≤ capacity) :
    (pAdd p q).length ≤ capacity :=
  length_norm_le_capacity (by rw [length_xorSeq]; exact max_le hp hq)

theorem coef_pSmul (K : Constants) (p : Poly) (c : Sym) (i : Nat) :
    coef (pSmul K p c) i = gfMul K (coef p i) c := by
  rw [pSmul, coef_norm, coef_scaleSeq]

theorem length_pSmul_le (K : Constants) (hp : p.length ≤ capacity) (c : Sym) :
    (pSmul K p c).length ≤ capacity :=
  length_norm_le_capacity (by rwa [scaleSeq, List.length_map])

theorem pSmul_zero (K : Constants) (p : Poly) : pSmul K p 0#6 = [0#6] :=
  (norm_eq_zero_iff _).mpr fun i => by rw [coef_scaleSeq, gfMul_zero_right]

theorem pSmul_one (hK : ConstantsLegal K) (hp : Poly.canonical p = true) : pSmul K p 1#6 = p :=
  eq_of_canonical_of_coef_eq (canonical_norm _) hp fun i => by rw [coef_pSmul, gfMul_one hK]

/-- A nonzero scalar keeps the degree: products of nonzero symbols are nonzero. -/
theorem deg_pSmul (hK : ConstantsLegal K) (hp : Poly.canonical p = true) {c : Sym}
    (hc : c ≠ 0#6) : deg (pSmul K p c) = deg p := by
  have hzero : ∀ i, coef (pSmul K p c) i = 0#6 ↔ coef p i = 0#6 := fun i => by
    rw [coef_pSmul]
    exact ⟨fun h => by_contra fun hi => gfMul_ne_zero hK hi hc h, fun h => by simp [h]⟩
  exact congrArg (· - 1) (length_eq_of_coef_eq_zero_iff (canonical_norm _) hp hzero)

theorem coef_pMul (K : Constants) (p q : Poly) (k : Nat) :
    coef (pMul K p q) k = productCoef K p q k := by
  rw [pMul, coef_norm, coef_convolve, productCoef]

theorem length_pMul_le (K : Constants) (hp : Poly.canonical p = true)
    (hq : Poly.canonical q = true) (h : deg p + deg q ≤ 62) :
    (pMul K p q).length ≤ capacity := by
  have hlen := length_convolve_lt K p q (List.length_pos_iff.mp (length_pos_of_canonical hq))
  have hdegp := deg_add_one_of_canonical hp
  have hdegq := deg_add_one_of_canonical hq
  exact length_norm_le_capacity (show _ ≤ 63 by omega)

@[simp] theorem productCoef_zero_left (K : Constants) (q : Poly) (k : Nat) :
    productCoef K [0#6] q k = 0#6 :=
  xorSum_eq_zero fun i _ => by rw [coef_zero_poly, gfMul_zero_left]

@[simp] theorem productCoef_zero_right (K : Constants) (p : Poly) (k : Nat) :
    productCoef K p [0#6] k = 0#6 :=
  xorSum_eq_zero fun i _ => by rw [coef_zero_poly, gfMul_zero_right]

theorem pMul_eq_zero (K : Constants) (h : p = [0#6] ∨ q = [0#6]) : pMul K p q = [0#6] := by
  refine (eq_zero_iff_of_canonical (canonical_norm _)).mpr fun k => (coef_pMul K p q k).trans ?_
  obtain rfl | rfl := h
  · exact productCoef_zero_left K q k
  · exact productCoef_zero_right K p k

theorem coef_pDeriv (p : Poly) (i : Nat) :
    coef (pDeriv p) i = if i % 2 = 0 then coef p (i + 1) else 0#6 := by
  rw [pDeriv, coef_norm, coef_map_range]
  by_cases hi : i < deg p
  · exact if_pos hi
  · rw [if_neg hi, coef_of_deg_lt (Nat.lt_succ_of_le (Nat.le_of_not_lt hi)), ite_self]

theorem length_pDeriv_le (hp : p.length ≤ capacity) : (pDeriv p).length ≤ capacity :=
  length_norm_le_capacity (by
    rw [List.length_map, List.length_range]
    exact (Nat.sub_le _ _).trans hp)

theorem pDeriv_of_deg_eq_zero (h : deg p = 0) : pDeriv p = [0#6] := by
  rw [pDeriv, h]
  rfl

theorem coef_pTrunc (p : Poly) (m i : Nat) :
    coef (pTrunc p m) i = if i ≤ m then coef p i else 0#6 := by
  simp only [pTrunc, coef_norm, coef_take, Nat.lt_succ_iff]

theorem length_pTrunc_le (hp : p.length ≤ capacity) (m : Nat) :
    (pTrunc p m).length ≤ capacity :=
  length_norm_le_capacity ((List.length_take_le' _ _).trans hp)

theorem pTrunc_of_deg_le (hp : Poly.canonical p = true) {m : Nat} (h : deg p ≤ m) :
    pTrunc p m = p := by
  have hdeg := deg_add_one_of_canonical hp
  rw [pTrunc, List.take_of_length_le (by omega), norm_of_canonical hp]

/-! ### The obligations -/

/-- Settles O30: the result is `norm` of the index-wise XOR. -/
theorem pAddAddsCoefficients : Obligations.PAddAddsCoefficients := by
  refine ⟨by decide, fun s hs => ⟨pAdd (polyA s) (polyB s), ?_, canonical_norm _, coef_pAdd _ _⟩⟩
  exact answers_polyResponse hs rfl (length_pAdd_le (length_polyA_le s) (length_polyB_le s))

/-- Settles O31: the result is `norm` of the products with the scalar, and which of them are zero
decides its degree. -/
theorem pSmulScalesCoefficients : Obligations.PSmulScalesCoefficients := by
  refine ⟨fun a => decode_cmdWord (row := ⟨0x21#8, .ps, fun a _ => .pSmul a⟩)
    (by simp [opcodeMap]) nofun fun _ => rfl, fun s c hs => ?_⟩
  refine ⟨pSmul s.const (polyA s) c, ?_, canonical_norm _, coef_pSmul _ _ c, ?_, ?_, ?_⟩
  · exact answers_polyResponse hs rfl (length_pSmul_le _ (length_polyA_le s) c)
  · rintro rfl
    exact pSmul_zero _ _
  · rintro hK rfl
    exact pSmul_one hK (canonical_polyA s)
  · exact fun hK hc => deg_pSmul hK (canonical_polyA s) hc

/-- Settles O32: the degrees are tested first; below the bound the convolution fits the port. -/
theorem pMulConvolves : Obligations.PMulConvolves := by
  refine ⟨by decide, fun s hs => ⟨fun hdeg => ?_, fun hdeg => ?_⟩⟩
  · have hover : deg (polyA s) + deg (polyB s) > capacity - 1 := hdeg
    rw [Answers, exec, execPMul, if_pos hover]
    exact finish_raise hs .resultOverflow
  · have hfits : ¬ deg (polyA s) + deg (polyB s) > capacity - 1 := Nat.not_lt.mpr hdeg
    have hexec : exec .pMul s = finish s (polyResponse (pMul s.const (polyA s) (polyB s))) := by
      rw [exec, execPMul, if_neg hfits]
    exact ⟨pMul s.const (polyA s) (polyB s),
      answers_polyResponse hs hexec
        (length_pMul_le _ (canonical_polyA s) (canonical_polyB s) hdeg),
      canonical_norm _, coef_pMul _ _ _, pMul_eq_zero _⟩

/-- Settles O36: above the operand's degree, where `p_deriv` reads nothing, its coefficients are 0
as well. -/
theorem pDerivKeepsOddTerms : Obligations.PDerivKeepsOddTerms := by
  refine ⟨by decide, fun s hs => ⟨pDeriv (polyA s), ?_, canonical_norm _, coef_pDeriv _,
    pDeriv_of_deg_eq_zero⟩⟩
  exact answers_polyResponse hs rfl (length_pDeriv_le (length_polyA_le s))

/-- Settles O37: `p_trunc` keeps the first `m + 1` coefficients, which are all of them for an
operand of degree at most `m`. -/
theorem pTruncKeepsLowTerms : Obligations.PTruncKeepsLowTerms := by
  refine ⟨fun a => decode_cmdWord (row := ⟨0x26#8, .ps, fun a _ => .pTrunc a⟩)
    (by simp [opcodeMap]) nofun fun _ => rfl, fun s m hs => ?_⟩
  exact ⟨pTrunc (polyA s) m.toNat,
    answers_polyResponse hs rfl (length_pTrunc_le (length_polyA_le s) _), canonical_norm _,
    coef_pTrunc _ _, pTrunc_of_deg_le (canonical_polyA s)⟩

end Sys2Proof.Machine
end

section
/-!
PROOFS. Evaluation (41_poly.md R127): the loop with a running power is the sum of the terms, and the
special case `x = 0` agrees with that sum, since `x^0` is 1.
-/

namespace Sys2Proof.Machine

open Sys2Proof.Safety

/-- The loop adds the terms of the coefficients it is given, whose powers go on from `x^n`. -/
theorem evalLoop_eq (K : Constants) (x : Sym) (p : List Sym) (acc : Sym) (n : Nat) :
    evalLoop K x p acc (power K x n) =
      acc ^^^ xorSum (fun i => gfMul K (coef p i) (power K x (n + i))) p.length := by
  induction p generalizing acc n with
  | nil => rw [List.length_nil, xorSum_zero, BitVec.xor_zero]; rfl
  | cons c cs ih =>
    rw [evalLoop, ← power, ih, List.length_cons, xorSum_shift, BitVec.xor_assoc]
    simp only [coef_cons_zero, coef_cons_succ, Nat.add_zero, Nat.add_right_comm n 1,
      Nat.add_assoc]

variable {K : Constants}

/-- At 0 only the constant term is left, since `0^(i+1)` is 0. -/
theorem polyValue_zero (hK : ConstantsLegal K) (p : Poly) : polyValue K p 0#6 = coef p 0 := by
  have hpower : ∀ i, power K 0#6 (i + 1) = 0#6 := fun i => gfMul_zero_right K _
  cases p with
  | nil => rfl
  | cons c cs =>
    rw [polyValue, List.length_cons, xorSum_shift,
      xorSum_eq_zero fun i _ => by rw [hpower, gfMul_zero_right], BitVec.xor_zero]
    exact gfMul_one hK _

theorem power_one (hK : ConstantsLegal K) (n : Nat) : power K 1#6 n = 1#6 := by
  induction n with
  | zero => rfl
  | succ n ih => rw [power, ih, gfMul_one hK]

theorem polyValue_one (hK : ConstantsLegal K) (p : Poly) :
    polyValue K p 1#6 = xorSum (coef p) p.length :=
  xorSum_congr fun i _ => by rw [power_one hK, gfMul_one hK]

theorem pEval_eq_polyValue (hK : ConstantsLegal K) (p : Poly) (x : Sym) :
    pEval K p x = polyValue K p x := by
  by_cases hx : x = 0#6
  · rw [pEval, if_pos hx, hx, polyValue_zero hK]
  · have hloop := evalLoop_eq K x p 0#6 0
    simp only [Nat.zero_add, BitVec.zero_xor] at hloop
    rw [pEval, if_neg hx]
    exact hloop

/-- Settles O35: `p_eval` is the sum of the terms, at 0 by its special case. -/
theorem pEvalIsTheValue : Obligations.PEvalIsTheValue := by
  refine ⟨fun a => decode_cmdWord (row := ⟨0x24#8, .ps, fun a _ => .pEval a⟩)
    (by simp [opcodeMap]) nofun fun _ => rfl, fun s x hs hK => ⟨?_, ?_, ?_⟩⟩
  · rw [← pEval_eq_polyValue hK]
    exact finish_ok hs _
  · rintro rfl
    exact polyValue_zero hK _
  · rintro rfl
    exact polyValue_one hK _

end Sys2Proof.Machine
end

section
/-!
PROOFS. Long division (41_poly.md R126, R131): each step of the loop cancels the remainder's highest
term and leaves `quotient * divisor + remainder` as it was, so the dividend is split.
-/

namespace Sys2Proof.Machine

open Sys2Proof.Safety

variable {K : Constants} {p q : Poly}

/-! ### Division in the field -/

theorem logOf_alphaPow (hK : ConstantsLegal K) (e : Nat) (h : alphaPow K e ≠ 0#6) :
    (logOf K (alphaPow K e) h).val = e % 63 :=
  congrArg Fin.val (logOf_powAt hK _)

theorem alphaPow_ne_zero (hK : ConstantsLegal K) (e : Nat) : alphaPow K e ≠ 0#6 :=
  powAt_ne_zero hK _

/-- Exponents add (40_field.md R104). -/
theorem gfMul_alphaPow (hK : ConstantsLegal K) (m n : Nat) :
    gfMul K (alphaPow K m) (alphaPow K n) = alphaPow K (m + n) := by
  rw [gfMul_of_ne_zero K (alphaPow_ne_zero hK m) (alphaPow_ne_zero hK n), logOf_alphaPow hK,
    logOf_alphaPow hK, ← alphaPow_mod, ← Nat.add_mod, alphaPow_mod]

/-- A quotient times its divisor is the dividend. -/
theorem exists_gfDiv_eq (hK : ConstantsLegal K) (a : Sym) {b : Sym} (hb : b ≠ 0#6) :
    ∃ c, gfDiv K a b = .ok c ∧ gfMul K c b = a := by
  by_cases ha : a = 0#6
  · exact ⟨0#6, ha ▸ gfDiv_zero_left K hb, by rw [gfMul_zero_left, ha]⟩
  · refine ⟨_, gfDiv_of_ne_zero_of_ne_zero K ha hb, ?_⟩
    have hle : (logOf K b hb).val ≤ (logOf K a ha).val + 63 := by omega
    have hsum := gfMul_alphaPow hK ((logOf K a ha).val + 63 - (logOf K b hb).val)
      (logOf K b hb).val
    rwa [Nat.sub_add_cancel hle, alphaPow_add_63, alphaPow_logOf hK ha, alphaPow_logOf hK hb]
      at hsum

/-! ### One step of the loop -/

/-- A sequence shifted `n` places up. -/
theorem coef_replicate_append (n : Nat) (v : List Sym) (i : Nat) :
    coef (List.replicate n 0#6 ++ v) i = if i < n then 0#6 else coef v (i - n) := by
  induction n generalizing i with
  | zero => rfl
  | succ n ih => cases i with
    | zero => rfl
    | succ i =>
      rw [List.replicate_succ, List.cons_append, coef_cons_succ, ih]
      simp only [Nat.succ_lt_succ_iff, Nat.add_sub_add_right]

theorem coef_replicate_append_xorSeq (n : Nat) (u v : List Sym) (i : Nat) :
    coef (List.replicate n 0#6 ++ xorSeq u v) i =
      coef (List.replicate n 0#6 ++ u) i ^^^ coef (List.replicate n 0#6 ++ v) i := by
  simp only [coef_replicate_append, coef_xorSeq]
  split
  · rfl
  · rfl

/-- The dividend the loop still accounts for, coefficient by coefficient: the quotient's
coefficients found so far, those of index `n` and above, times the divisor, plus the remainder. -/
def divTotal (K : Constants) (q : Poly) (n : Nat) (rem quo : List Sym) (k : Nat) : Sym :=
  coef (List.replicate n 0#6 ++ convolve K quo q) k ^^^ coef rem k

theorem divTotal_nil (K : Constants) (q : Poly) (n : Nat) (rem : List Sym) (k : Nat) :
    divTotal K q n rem [] k = coef rem k := by
  rw [divTotal, convolve, coef_replicate_append, coef_nil, ite_self, BitVec.zero_xor]

theorem divTotal_zero (K : Constants) (q : Poly) (rem quo : List Sym) (k : Nat) :
    divTotal K q 0 rem quo k = productCoef K (norm quo) q k ^^^ coef (norm rem) k := by
  simp only [divTotal, productCoef, coef_norm, coef_convolve, List.replicate_zero,
    List.nil_append]

/-- One step of the loop: with `c` as the quotient's coefficient of index `n`, which cancels the
remainder's coefficient at index `n + deg q`, the remainder `rem` becomes `rem'`. -/
structure DivStep (K : Constants) (q : Poly) (n : Nat) (c : Sym) (rem rem' : List Sym) : Prop where
  mul_lead : gfMul K c (lead q) = coef rem (n + deg q)
  coef_rem : ∀ i, coef rem' i =
    coef rem i ^^^ coef (List.replicate n 0#6 ++ q.map fun b => gfMul K c b) i

/-- The loop goes on with such a step; where the coefficient to cancel is 0 already, `c` is 0. -/
theorem divLoop_succ (hK : ConstantsLegal K) (hq : lead q ≠ 0#6) (n : Nat) (rem quo : List Sym) :
    ∃ c rem', divLoop K q (n + 1) rem quo = divLoop K q n rem' (c :: quo) ∧
      DivStep K q n c rem rem' := by
  by_cases h0 : coef rem (n + deg q) = 0#6
  · refine ⟨0#6, rem, by rw [divLoop, if_pos h0], by rw [gfMul_zero_left, h0], fun i => ?_⟩
    rw [coef_replicate_append, coef_map (gfMul_zero_right K _), gfMul_zero_left, ite_self,
      BitVec.xor_zero]
  · obtain ⟨c, hc, hmul⟩ := exists_gfDiv_eq hK (coef rem (n + deg q)) hq
    exact ⟨c, _, by rw [divLoop, if_neg h0, hc]; rfl, hmul, coef_xorSeq _ _⟩

/-- What the quotient gains by a step the remainder loses. -/
theorem DivStep.divTotal_cons {n : Nat} {c : Sym} {rem rem' : List Sym}
    (h : DivStep K q n c rem rem') (quo : List Sym) (k : Nat) :
    divTotal K q n rem' (c :: quo) k = divTotal K q (n + 1) rem quo k := by
  have hshift : List.replicate (n + 1) 0#6 ++ convolve K quo q =
      List.replicate n 0#6 ++ 0#6 :: convolve K quo q := by
    rw [List.replicate_succ', List.append_assoc, List.singleton_append]
  have hcancel : ∀ x y z : Sym, (x ^^^ y) ^^^ (z ^^^ x) = y ^^^ z := fun x y z => by
    rw [BitVec.xor_comm x y, BitVec.xor_assoc, BitVec.xor_comm z x, ← BitVec.xor_assoc x,
      BitVec.xor_self, BitVec.zero_xor]
  rw [divTotal, divTotal, convolve, coef_replicate_append_xorSeq, h.coef_rem, hshift, hcancel]

/-- After a step the remainder ends one index lower. -/
theorem DivStep.coef_eq_zero {n : Nat} {c : Sym} {rem rem' : List Sym}
    (h : DivStep K q n c rem rem') (hhigh : ∀ i, n + 1 + deg q ≤ i → coef rem i = 0#6) {i : Nat}
    (hi : n + deg q ≤ i) : coef rem' i = 0#6 := by
  rw [h.coef_rem, coef_replicate_append, if_neg (by omega), coef_map (gfMul_zero_right K c)]
  obtain rfl | hlt := Nat.eq_or_lt_of_le hi
  · rw [Nat.add_sub_cancel_left, ← lead, h.mul_lead, BitVec.xor_self]
  · rw [hhigh i (by omega), coef_of_deg_lt (p := q) (by omega), gfMul_zero_right,
      BitVec.xor_zero]

/-! ### The loop -/

/-- The loop finds all coefficients of the quotient, keeps what the two account for, and leaves a
remainder that ends below the divisor's degree. -/
theorem divLoop_eq_ok (hK : ConstantsLegal K) (hq : lead q ≠ 0#6) (n : Nat) (rem quo : List Sym)
    (hhigh : ∀ i, n + deg q ≤ i → coef rem i = 0#6) :
    ∃ quo' rem', divLoop K q n rem quo = .ok (quo', rem') ∧ quo'.length = n + quo.length ∧
      (∀ i, deg q ≤ i → coef rem' i = 0#6) ∧
      ∀ k, divTotal K q 0 rem' quo' k = divTotal K q n rem quo k := by
  induction n generalizing rem quo with
  | zero => exact ⟨quo, rem, rfl, (Nat.zero_add _).symm, by simpa using hhigh, fun _ => rfl⟩
  | succ n ih =>
    obtain ⟨c, rem₁, hnext, hstep⟩ := divLoop_succ hK hq n rem quo
    obtain ⟨quo', rem', hloop, hlen, hlow, htotal⟩ :=
      ih rem₁ (c :: quo) fun i => hstep.coef_eq_zero hhigh
    refine ⟨quo', rem', hnext.trans hloop, ?_, hlow, fun k => ?_⟩
    · rw [hlen, List.length_cons]
      omega
    · rw [htotal, hstep.divTotal_cons]

/-! ### The division law -/

/-- What a division of `p` by `q` answers (41_poly.md R126, R131). -/
structure IsDivision (K : Constants) (p q quo rem : Poly) : Prop where
  canonical_quo : Poly.canonical quo = true
  canonical_rem : Poly.canonical rem = true
  law : ∀ k, coef p k = productCoef K quo q k ^^^ coef rem k
  rem_lt : rem = [0#6] ∨ deg rem < deg q
  length_quo_le : quo.length ≤ p.length
  of_deg_lt : deg p < deg q → quo = [0#6] ∧ rem = p

theorem isDivision_of_deg_lt (K : Constants) (hp : Poly.canonical p = true)
    (h : deg p < deg q) : IsDivision K p q [0#6] p where
  canonical_quo := rfl
  canonical_rem := hp
  law k := by rw [productCoef_zero_left, BitVec.zero_xor]
  rem_lt := .inr h
  length_quo_le := length_pos_of_canonical hp
  of_deg_lt _ := ⟨rfl, rfl⟩

/-- A sequence that ends below the index `n` is, normalised, `[0]` or of lower degree. -/
theorem norm_eq_zero_or_deg_lt {v : List Sym} {n : Nat} (h : ∀ i, n ≤ i → coef v i = 0#6) :
    norm v = [0#6] ∨ deg (norm v) < n := by
  cases n with
  | zero => exact .inl ((norm_eq_zero_iff v).mpr fun i => h i i.zero_le)
  | succ n =>
    have hlen := length_le_of_canonical (canonical_norm v) n.succ_pos fun i hi => by
      rw [coef_norm, h i hi]
    have hdeg := deg_add_one_of_canonical (canonical_norm v)
    exact .inr (by omega)

/-- Division by a polynomial that is not zero answers a quotient and a remainder. -/
theorem exists_pDivmod_eq_ok (hK : ConstantsLegal K) (hp : Poly.canonical p = true)
    (hq : Poly.canonical q = true) (hq0 : q ≠ [0#6]) :
    ∃ quo rem, pDivmod K p q = .ok (quo, rem) ∧ IsDivision K p q quo rem := by
  rw [pDivmod, if_neg (mt (isZero_iff_of_canonical hq).mp hq0)]
  by_cases hdeg : deg p < deg q
  · exact ⟨[0#6], p, if_pos hdeg, isDivision_of_deg_lt K hp hdeg⟩
  obtain ⟨quo, rem, hloop, hlen, hlow, htotal⟩ :=
    divLoop_eq_ok hK (lead_ne_zero_of_ne_zero hq hq0) (deg p - deg q + 1) p [] fun i hi =>
      coef_of_deg_lt (by omega)
  refine ⟨norm quo, norm rem, by rw [if_neg hdeg, hloop]; rfl, ?_⟩
  exact {
    canonical_quo := canonical_norm quo
    canonical_rem := canonical_norm rem
    law := fun k => by rw [← divTotal_zero, htotal, divTotal_nil]
    rem_lt := norm_eq_zero_or_deg_lt hlow
    length_quo_le := by
      have hnorm := length_norm_le quo
      have hdegp := deg_add_one_of_canonical hp
      rw [List.length_nil] at hlen
      omega
    of_deg_lt := fun h => absurd h hdeg }

theorem IsDivision.length_rem_le {quo rem : Poly} (h : IsDivision K p q quo rem)
    (hq : Poly.canonical q = true) : rem.length ≤ q.length := by
  obtain rfl | hlt := h.rem_lt
  · exact length_pos_of_canonical hq
  · have hdegq := deg_add_one_of_canonical hq
    have hdegr := deg_add_one_of_canonical h.canonical_rem
    omega

/-- The operation answers what the function does: both results fit the ports. -/
theorem pDivmod_answers {s : State} (hs : s.ready = true) {quo rem : Poly}
    (hdiv : pDivmod s.const (polyA s) (polyB s) = .ok (quo, rem))
    (hquo : quo.length ≤ capacity) (hrem : rem.length ≤ capacity) :
    Answers .pDivmod s { status := .ok, vq := some quo, vr := some rem } := by
  have hresult : (do
      let vq ← outPoly quo
      let vr ← outPoly rem
      return { status := .ok, vq := some vq, vr := some vr } : Except Abort Response) =
      .ok { status := .ok, vq := some quo, vr := some rem } := by
    rw [outPoly_ok hquo, outPoly_ok hrem]
    rfl
  rw [Answers, exec, execPDivmod, hdiv]
  exact (congrArg (finish s) hresult).trans (finish_ok hs _)

theorem pDivmod_answers_raise {s : State} (hs : s.ready = true) (h : polyB s = [0#6]) :
    Answers .pDivmod s { status := .divisionByZeroPolynomial } := by
  have hzero : isZero (polyB s) = true := (isZero_iff_of_canonical (canonical_polyB s)).mpr h
  rw [Answers, exec, execPDivmod, pDivmod, if_pos hzero]
  exact finish_raise hs .divisionByZeroPolynomial

/-- Settles O33: the zero divisor is tested first; otherwise the loop keeps the dividend as quotient
times divisor plus remainder and ends with a remainder below the divisor's degree. -/
theorem pDivmodDivides : Obligations.PDivmodDivides := by
  refine ⟨by decide, fun s hs => ⟨pDivmod_answers_raise hs, fun hK h0 => ?_⟩⟩
  obtain ⟨quo, rem, hdiv, h⟩ :=
    exists_pDivmod_eq_ok hK (canonical_polyA s) (canonical_polyB s) h0
  have hquo := h.length_quo_le.trans (length_polyA_le s)
  have hrem := (h.length_rem_le (canonical_polyB s)).trans (length_polyB_le s)
  exact ⟨quo, rem, pDivmod_answers hs hdiv hquo hrem, h.canonical_quo, h.canonical_rem, h.law,
    h.rem_lt, h.of_deg_lt⟩

end Sys2Proof.Machine
end

section
/-!
PROOFS. The encoder (42_encoder.md R161): the symbols of the codeword are the coefficients of the
message times the generator. A coefficient of a product is a sum over the indices up to its own; of
two factors of bounded length it is as well a sum over the indices of the first, restricted to those
that leave an index of the second.
-/

namespace Sys2Proof.Machine

open Sys2Proof.Safety

theorem xorSum_eq_of_le_of_eq_zero {f : Nat → Sym} {m n : Nat} (hmn : m ≤ n)
    (h : ∀ i, m ≤ i → f i = 0#6) : xorSum f n = xorSum f m := by
  induction n, hmn using Nat.le_induction with
  | base => rfl
  | succ n hmn ih => rw [xorSum_succ, h n hmn, BitVec.xor_zero, ih]

/-- Two sums of the same terms are equal if each leaves out zeros only. -/
theorem xorSum_eq_of_eq_zero {f : Nat → Sym} {m n : Nat} (hm : ∀ i, m ≤ i → f i = 0#6)
    (hn : ∀ i, n ≤ i → f i = 0#6) : xorSum f m = xorSum f n :=
  (le_total m n).elim (fun h => (xorSum_eq_of_le_of_eq_zero h hm).symm)
    fun h => xorSum_eq_of_le_of_eq_zero h hn

/-- The term of index `i` in the coefficient of `x^k` of a product whose second factor has degree
at most `d`: 0 unless `k - i` is an index of that factor. -/
def windowTerm (K : Constants) (d : Nat) (p q : List Sym) (k i : Nat) : Sym :=
  if i ≤ k ∧ k ≤ i + d then gfMul K (coef p i) (coef q (k - i)) else 0#6

section
variable {d m : Nat} {p q : List Sym} (K : Constants)

theorem windowTerm_of_lt {k i : Nat} (h : k < i) : windowTerm K d p q k i = 0#6 :=
  if_neg fun hwindow => by omega

theorem windowTerm_of_length_le {k i : Nat} (h : p.length ≤ i) :
    windowTerm K d p q k i = 0#6 := by
  rw [windowTerm, coef_of_length_le h, gfMul_zero_left, ite_self]

theorem windowTerm_of_le (hq : q.length ≤ d + 1) {k i : Nat} (h : i ≤ k) :
    windowTerm K d p q k i = gfMul K (coef p i) (coef q (k - i)) := by
  by_cases hk : k ≤ i + d
  · exact if_pos ⟨h, hk⟩
  · rw [windowTerm, if_neg fun hwindow => hk hwindow.2, coef_of_length_le (p := q) (by omega),
      gfMul_zero_right]

theorem productCoef_eq_xorSum_windowTerm (hp : p.length ≤ m) (hq : q.length ≤ d + 1) (k : Nat) :
    productCoef K p q k = xorSum (windowTerm K d p q k) m :=
  calc productCoef K p q k
    _ = xorSum (windowTerm K d p q k) (k + 1) :=
      xorSum_congr fun _ hi => (windowTerm_of_le K hq (Nat.le_of_lt_succ hi)).symm
    _ = xorSum (windowTerm K d p q k) m :=
      xorSum_eq_of_eq_zero (fun _ hi => windowTerm_of_lt K hi) fun _ hi =>
        windowTerm_of_length_le K (hp.trans hi)

end

theorem length_genPoly (K : Constants) : (genPoly K).length = 22 := Vector.length_toList

theorem coef_rsEnc (K : Constants) (message : List Sym) {i : Nat} (hi : i < 63) :
    coef (rsEnc K message).toList i = productCoef K message (genPoly K) i := by
  simp only [rsEnc, coef_padWord _ hi, coef_pMul, productCoef, coef_norm]

theorem rsEnc_answers {s : State} (hs : s.ready = true) (hla : s.ports.la = 42#6) :
    Answers .rsEnc s
      { status := .ok, vr := some (rsEnc s.const (s.ports.va.toList.take 42)).toList } := by
  have hlen : s.ports.la.toNat = messageLength := congrArg BitVec.toNat hla
  rw [Answers, exec, execRsEnc, if_neg (not_not.mpr hlen)]
  exact finish_ok hs _

theorem rsEnc_answers_raise {s : State} (hs : s.ready = true) (hla : s.ports.la ≠ 42#6) :
    Answers .rsEnc s { status := .invalidMessageLength } := by
  have hlen : s.ports.la.toNat ≠ messageLength := fun h => hla (BitVec.eq_of_toNat_eq h)
  rw [Answers, exec, execRsEnc, if_pos hlen]
  exact finish_raise hs .invalidMessageLength

/-- Settles O40: the symbols of the codeword are the coefficients of the product, and the message's
valid entries are the first 42 of the port. -/
theorem rsEncMultipliesByTheGenerator : Obligations.RsEncMultipliesByTheGenerator := by
  refine ⟨by decide, fun s hs => ⟨rsEnc_answers_raise hs, fun hla =>
    ⟨_, rsEnc_answers hs hla, Vector.length_toList, fun i hi => ?_⟩⟩⟩
  rw [coef_rsEnc _ _ hi, productCoef_eq_xorSum_windowTerm s.const (List.length_take_le 42 _)
    (length_genPoly s.const).le]
  exact xorSum_congr fun k hk => by rw [windowTerm, coef_take, if_pos hk]; rfl

end Sys2Proof.Machine
end

section
/-!
PROOFS. Syndromes and the modified syndrome polynomial (43_decoder_stages.md R175, R176, R178): each
is `norm` of a sequence of at most 63 coefficients, and the exponents in a syndrome's terms are
those of the powers of `α^j`, so a syndrome is a value of the masked word.
-/

namespace Sys2Proof.Machine

open Sys2Proof.Safety

/-! ### The masked word -/

theorem coef_maskedWord (s : State) {i : Nat} (hi : i < 63) :
    coef (maskedWord s).toList i = maskedAt s i := by
  rw [coef_of_lt (by simpa using hi)]
  simp [maskedWord, maskWord, maskedAt, emAt, vaAt, coef, hi]

theorem syndrome_maskedWord (s : State) (j : Nat) :
    syndrome s.const (maskedWord s) j = maskedSyndrome s j :=
  xorSum_congr fun i hi => by rw [coef_maskedWord s hi]

/-! ### The syndrome polynomial -/

theorem coef_rsSynd (K : Constants) (w : Word63) (k : Nat) :
    coef (rsSynd K w) k = if k < 21 then syndrome K w (k + 1) else 0#6 := by
  rw [rsSynd, coef_norm, coef_map_range]

theorem canonical_rsSynd (K : Constants) (w : Word63) : Poly.canonical (rsSynd K w) = true :=
  canonical_norm _

theorem length_rsSynd_le (K : Constants) (w : Word63) : (rsSynd K w).length ≤ capacity :=
  length_norm_le_capacity (by rw [List.length_map, List.length_range]; decide)

/-- The syndrome polynomial is zero exactly if all 21 syndromes are. -/
theorem isZero_rsSynd_iff (K : Constants) (w : Word63) :
    isZero (rsSynd K w) = true ↔ ∀ k < 21, syndrome K w (k + 1) = 0#6 := by
  simp only [isZero_iff_of_canonical (canonical_rsSynd K w),
    eq_zero_iff_of_canonical (canonical_rsSynd K w), coef_rsSynd, ite_eq_right_iff]

theorem power_alphaPow {K : Constants} (hK : ConstantsLegal K) (j i : Nat) :
    power K (alphaPow K j) i = alphaPow K (i * j) := by
  induction i with
  | zero => rw [Nat.zero_mul]; exact (powAt_zero hK).symm
  | succ i ih => rw [power, ih, gfMul_alphaPow hK, Nat.succ_mul]

/-- The syndrome `S_j` is the value at `α^j`. -/
theorem maskedSyndrome_eq_polyValue {s : State} (hK : ConstantsLegal s.const) (j : Nat) :
    maskedSyndrome s j =
      polyValue s.const ((List.range 63).map (maskedAt s)) (alphaPow s.const j) := by
  rw [polyValue, List.length_map, List.length_range]
  exact xorSum_congr fun i hi => by rw [coef_map_range, if_pos hi, power_alphaPow hK]

theorem rsSynd_answers {s : State} (hs : s.ready = true) (hla : s.ports.la = 63#6) :
    Answers .rsSynd s
      { status := .ok, vr := some (rsSynd s.const (maskedWord s)),
        fr := some (isZero (rsSynd s.const (maskedWord s))) } := by
  have hlen : s.ports.la.toNat = codeLength := congrArg BitVec.toNat hla
  rw [Answers, exec, execRsSynd, if_neg (not_not.mpr hlen), outPoly_ok (length_rsSynd_le _ _)]
  exact finish_ok hs _

theorem rsSynd_answers_raise {s : State} (hs : s.ready = true) (hla : s.ports.la ≠ 63#6) :
    Answers .rsSynd s { status := .badOperand } := by
  have hlen : s.ports.la.toNat ≠ codeLength := fun h => hla (BitVec.eq_of_toNat_eq h)
  rw [Answers, exec, execRsSynd, if_pos hlen]
  exact finish_raise hs .badOperand

/-- Settles O43: the coefficients are the syndromes of the masked word, the flag is `is_zero` of
their polynomial, and a syndrome's terms are those of the value at `α^j`. -/
theorem rsSyndComputesTheSyndromes : Obligations.RsSyndComputesTheSyndromes := by
  refine ⟨by decide, fun s hs => ⟨rsSynd_answers_raise hs, fun hla => ?_⟩⟩
  have hlow : ∀ k < 21, coef (rsSynd s.const (maskedWord s)) k = maskedSyndrome s (k + 1) :=
    fun k hk => by rw [coef_rsSynd, if_pos hk, syndrome_maskedWord]
  refine ⟨_, _, rsSynd_answers hs hla, canonical_rsSynd _ _, hlow, fun k hk => ?_, ?_,
    fun hK k hk => ?_⟩
  · rw [coef_rsSynd, if_neg (Nat.not_lt.mpr hk)]
  · simp only [isZero_rsSynd_iff, syndrome_maskedWord]
  · rw [hlow k hk, maskedSyndrome_eq_polyValue hK]

/-! ### The modified syndrome polynomial -/

/-- Where the degrees pass the capacity test, the truncated product fits the port. -/
theorem rsModsynd_answers {s : State} (hs : s.ready = true)
    (hdeg : deg (polyA s) + deg (polyB s) ≤ 62) :
    Answers .rsModsynd s
      { status := .ok, vr := some (rsModsynd s.const (polyA s) (polyB s)) } := by
  have hfits : ¬ deg (polyA s) + deg (polyB s) > capacity - 1 := Nat.not_lt.mpr hdeg
  have hexec : exec .rsModsynd s =
      finish s (polyResponse (rsModsynd s.const (polyA s) (polyB s))) := by
    rw [exec, execRsModsynd, if_neg hfits]
  exact answers_polyResponse hs hexec
    (length_pTrunc_le (length_pMul_le _ (canonical_polyA s) (canonical_polyB s) hdeg) _)

theorem rsModsynd_answers_raise {s : State} (hs : s.ready = true)
    (hdeg : deg (polyA s) + deg (polyB s) > 62) :
    Answers .rsModsynd s { status := .resultOverflow } := by
  have hover : deg (polyA s) + deg (polyB s) > capacity - 1 := hdeg
  rw [Answers, exec, execRsModsynd, if_pos hover]
  exact finish_raise hs .resultOverflow

theorem coef_rsModsynd (K : Constants) (g t : Poly) (k : Nat) :
    coef (rsModsynd K g t) k = if k ≤ 20 then productCoef K g t k else 0#6 := by
  rw [rsModsynd, coef_pTrunc, coef_pMul]
  rfl

theorem rsModsynd_zero_right (K : Constants) (g : Poly) : rsModsynd K g [0#6] = [0#6] := by
  rw [rsModsynd, pMul_eq_zero K (.inr rfl)]
  rfl

/-- Settles O45: the degrees are tested first; the result is the product without its terms above
degree 20. -/
theorem rsModsyndTruncatesTheProduct : Obligations.RsModsyndTruncatesTheProduct := by
  refine ⟨by decide, fun s hs => ⟨rsModsynd_answers_raise hs, fun hdeg =>
    ⟨_, rsModsynd_answers hs hdeg, canonical_norm _, coef_rsModsynd _ _ _, fun hB => ?_⟩⟩⟩
  rw [hB, rsModsynd_zero_right]

end Sys2Proof.Machine
end

section
/-!
PROOFS. The Euclidean solver (43_decoder_stages.md R179 to R181): from pair to pair the degree of
the remainder falls and the degree of its locator is 21 less the degree of the remainder before, so
the stop test is a test of the remainder alone and passes within the bound on divisions.
-/

namespace Sys2Proof.Machine

open Sys2Proof.Safety

variable {K : Constants} {p q : Poly}

/-! ### Degrees of products and sums -/

theorem xorSum_eq_single {f : Nat → Sym} {n j : Nat} (hj : j < n)
    (h : ∀ i < n, i ≠ j → f i = 0#6) : xorSum f n = f j := by
  induction n with
  | zero => cases hj
  | succ n ih =>
    rw [xorSum_succ]
    obtain hlt | rfl := Nat.lt_succ_iff_lt_or_eq.mp hj
    · rw [ih hlt fun i hi => h i (Nat.lt_succ_of_lt hi), h n n.lt_succ_self hlt.ne',
        BitVec.xor_zero]
    · rw [xorSum_eq_zero fun i hi => h i (Nat.lt_succ_of_lt hi) hi.ne, BitVec.zero_xor]

/-- The degree is the index of the last nonzero coefficient. -/
theorem deg_eq_of_canonical {n : Nat} (hp : Poly.canonical p = true) (hn : coef p n ≠ 0#6)
    (hhigh : ∀ i, n < i → coef p i = 0#6) : deg p = n := by
  have hlen := length_le_of_canonical hp n.succ_pos hhigh
  have hge : n ≤ deg p := Nat.le_of_not_lt fun h => hn (coef_of_deg_lt h)
  have hdeg := deg_add_one_of_canonical hp
  omega

theorem productCoef_eq_zero_of_deg_lt (K : Constants) {k : Nat} (h : deg p + deg q < k) :
    productCoef K p q k = 0#6 := by
  refine xorSum_eq_zero fun i _ => ?_
  by_cases hi : deg p < i
  · rw [coef_of_deg_lt hi, gfMul_zero_left]
  · rw [coef_of_deg_lt (p := q) (by omega), gfMul_zero_right]

theorem productCoef_deg_add_deg (K : Constants) (p q : Poly) :
    productCoef K p q (deg p + deg q) = gfMul K (lead p) (lead q) := by
  have hsingle : productCoef K p q (deg p + deg q) =
      gfMul K (coef p (deg p)) (coef q (deg p + deg q - deg p)) := by
    refine xorSum_eq_single (by omega) fun i _ hne => ?_
    obtain hlt | hgt := Nat.lt_or_gt_of_ne hne
    · rw [coef_of_deg_lt (p := q) (by omega), gfMul_zero_right]
    · rw [coef_of_deg_lt hgt, gfMul_zero_left]
  rw [hsingle, Nat.add_sub_cancel_left]
  rfl

theorem canonical_pMul (K : Constants) (p q : Poly) : Poly.canonical (pMul K p q) = true :=
  canonical_norm _

/-- The degrees of nonzero factors add (41_poly.md R132). -/
theorem deg_pMul (hK : ConstantsLegal K) (hp : Poly.canonical p = true)
    (hq : Poly.canonical q = true) (hp0 : p ≠ [0#6]) (hq0 : q ≠ [0#6]) :
    deg (pMul K p q) = deg p + deg q := by
  refine deg_eq_of_canonical (canonical_pMul K p q) ?_ fun i hi => ?_
  · rw [coef_pMul, productCoef_deg_add_deg]
    exact gfMul_ne_zero hK (lead_ne_zero_of_ne_zero hp hp0) (lead_ne_zero_of_ne_zero hq hq0)
  · rw [coef_pMul, productCoef_eq_zero_of_deg_lt K hi]

/-- A polynomial that is zero or of lower degree has no coefficient from that degree on. -/
theorem coef_eq_zero_of_zero_or_deg_lt {n i : Nat} (h : p = [0#6] ∨ deg p < n) (hi : n ≤ i) :
    coef p i = 0#6 := by
  obtain rfl | hlt := h
  · exact coef_zero_poly i
  · exact coef_of_deg_lt (hlt.trans_le hi)

/-- Adding a polynomial of lower degree keeps the degree (41_poly.md R132). -/
theorem deg_pAdd_of_lt (hq : Poly.canonical q = true) (hq0 : q ≠ [0#6])
    (hp : p = [0#6] ∨ deg p < deg q) : deg (pAdd p q) = deg q := by
  refine deg_eq_of_canonical (canonical_norm _) ?_ fun i hi => ?_
  · rw [coef_pAdd, coef_eq_zero_of_zero_or_deg_lt hp le_rfl, BitVec.zero_xor]
    exact lead_ne_zero_of_ne_zero hq hq0
  · rw [coef_pAdd, coef_eq_zero_of_zero_or_deg_lt hp hi.le, coef_of_deg_lt hi, BitVec.zero_xor]

theorem ne_zero_of_deg_pos (h : 0 < deg p) : p ≠ [0#6] := by
  rintro rfl
  exact absurd h (by decide)

/-! ### The degree of a quotient -/

/-- Where the divisor's degree is positive and below the dividend's, the degrees of quotient and
divisor add up to the dividend's: the remainder is too short to matter. -/
theorem IsDivision.deg_quo_add {quo rem : Poly} (hK : ConstantsLegal K)
    (h : IsDivision K p q quo rem) (hp : Poly.canonical p = true) (hq : Poly.canonical q = true)
    (hpos : 0 < deg q) (hdeg : deg q < deg p) : deg quo + deg q = deg p := by
  have hquo : quo ≠ [0#6] := by
    rintro rfl
    refine lead_ne_zero_of_ne_zero hp (ne_zero_of_deg_pos (hpos.trans hdeg)) ?_
    rw [lead, h.law, productCoef_zero_left, BitVec.zero_xor]
    exact coef_eq_zero_of_zero_or_deg_lt h.rem_lt hdeg.le
  have hsum : p = pAdd rem (pMul K quo q) :=
    eq_of_canonical_of_coef_eq hp (canonical_norm _) fun k => by
      rw [coef_pAdd, coef_pMul, h.law, BitVec.xor_comm]
  have hmul := deg_pMul hK h.canonical_quo hq hquo (ne_zero_of_deg_pos hpos)
  have hrem : rem = [0#6] ∨ deg rem < deg (pMul K quo q) :=
    h.rem_lt.imp_right fun hlt => by omega
  calc deg quo + deg q
    _ = deg (pMul K quo q) := hmul.symm
    _ = deg (pAdd rem (pMul K quo q)) :=
      (deg_pAdd_of_lt (canonical_pMul _ _ _) (ne_zero_of_deg_pos (by omega)) hrem).symm
    _ = deg p := by rw [← hsum]

/-! ### What every pair of the loop satisfies -/

/-- What holds of two successive pairs of the loop when the stop test has failed on the first of
them (43_decoder_stages.md R181): the degree of the remainder falls, the degree of the locator grows
and is 21 less the degree of the remainder before. -/
structure EuclidInv (e0 : Nat) (rPrev rCur vPrev vCur : Poly) : Prop where
  canonical_rPrev : Poly.canonical rPrev = true
  canonical_rCur : Poly.canonical rCur = true
  canonical_vCur : Poly.canonical vCur = true
  rCur_lt : rCur = [0#6] ∨ deg rCur < deg rPrev
  vPrev_lt : vPrev = [0#6] ∨ deg vPrev < deg vCur
  vCur_ne_zero : vCur ≠ [0#6]
  deg_vCur_add : deg vCur + deg rPrev = 21
  nu_lt : nu e0 < deg rPrev

variable {e0 : Nat} {rPrev rCur vPrev vCur : Poly}

theorem canonical_x21 : Poly.canonical x21 = true := by decide

/-- The seeds satisfy it (43_decoder_stages.md R180). -/
theorem euclidInv_seeds (he0 : e0 ≤ 21) {t : Poly} (ht : Poly.canonical t = true)
    (hdeg : deg t ≤ 20) : EuclidInv e0 x21 t [0#6] [1#6] where
  canonical_rPrev := canonical_x21
  canonical_rCur := ht
  canonical_vCur := by decide
  rCur_lt := .inr (Nat.lt_succ_of_le hdeg)
  vPrev_lt := .inl rfl
  vCur_ne_zero := by decide
  deg_vCur_add := rfl
  nu_lt := show (21 + e0 + 1) / 2 - 1 < 21 by omega

/-- The locator's bound always holds, so the stop test is the remainder's bound. -/
theorem EuclidInv.stops_iff (h : EuclidInv e0 rPrev rCur vPrev vCur) :
    EuclidStops e0 rCur vCur ↔ deg rCur ≤ nu e0 := by
  have hsum := h.deg_vCur_add
  have hlt : (21 + e0 + 1) / 2 - 1 < deg rPrev := h.nu_lt
  exact and_iff_left (by omega)

theorem EuclidInv.deg_rCur_lt (h : EuclidInv e0 rPrev rCur vPrev vCur) (hpos : 0 < deg rCur) :
    deg rCur < deg rPrev :=
  h.rCur_lt.resolve_left (ne_zero_of_deg_pos hpos)

/-- One division keeps it. -/
theorem EuclidInv.of_isDivision (hK : ConstantsLegal K) (h : EuclidInv e0 rPrev rCur vPrev vCur)
    (hgo : nu e0 < deg rCur) {quo rem : Poly} (hdiv : IsDivision K rPrev rCur quo rem) :
    EuclidInv e0 rCur rem vCur (pAdd vPrev (pMul K vCur quo)) := by
  have hpos : 0 < deg rCur := Nat.zero_lt_of_lt hgo
  have hlt := h.deg_rCur_lt hpos
  have hquo := hdiv.deg_quo_add hK h.canonical_rPrev h.canonical_rCur hpos hlt
  have hmul := deg_pMul hK h.canonical_vCur hdiv.canonical_quo h.vCur_ne_zero
    (ne_zero_of_deg_pos (by omega))
  have hadd : deg (pAdd vPrev (pMul K vCur quo)) = deg vCur + deg quo :=
    (deg_pAdd_of_lt (canonical_pMul _ _ _) (ne_zero_of_deg_pos (by omega))
      (h.vPrev_lt.imp_right fun hv => by omega)).trans hmul
  have hsum := h.deg_vCur_add
  exact {
    canonical_rPrev := h.canonical_rCur
    canonical_rCur := hdiv.canonical_rem
    canonical_vCur := canonical_norm _
    rCur_lt := hdiv.rem_lt
    vPrev_lt := .inr (by omega)
    vCur_ne_zero := ne_zero_of_deg_pos (by omega)
    deg_vCur_add := by omega
    nu_lt := hgo }

/-! ### The run of the loop -/

/-- A sequence with one more polynomial in front. -/
def prepend (p : Poly) (f : Nat → Poly) : Nat → Poly
  | 0 => p
  | n + 1 => f n

/-- The pairs `r i`, `v i` go on by division, and the pair of index `n + 1` is the first, from index
1 on, to pass the stop test (43_decoder_stages.md R180). -/
def EuclidRun (K : Constants) (e0 n : Nat) (r v : Nat → Poly) : Prop :=
  (∀ i < n, ¬ EuclidStops e0 (r (i + 1)) (v (i + 1)) ∧
    EuclidDivides K (r i) (r (i + 1)) (r (i + 2)) (v i) (v (i + 1)) (v (i + 2))) ∧
  EuclidStops e0 (r (n + 1)) (v (n + 1))

theorem EuclidRun.prepend {n : Nat} {r v : Nat → Poly} (h : EuclidRun K e0 n r v)
    (hgo : ¬ EuclidStops e0 (r 0) (v 0))
    (hdiv : EuclidDivides K rPrev (r 0) (r 1) vPrev (v 0) (v 1)) :
    EuclidRun K e0 (n + 1) (prepend rPrev r) (prepend vPrev v) := by
  obtain ⟨hsteps, hstop⟩ := h
  refine ⟨fun i hi => ?_, hstop⟩
  cases i with
  | zero => exact ⟨hgo, hdiv⟩
  | succ i => exact hsteps i (Nat.lt_of_succ_lt_succ hi)

theorem IsDivision.euclidDivides {quo rem : Poly} (h : IsDivision K rPrev rCur quo rem)
    (vPrev vCur : Poly) :
    EuclidDivides K rPrev rCur rem vPrev vCur (pAdd vPrev (pMul K vCur quo)) :=
  ⟨quo, h.canonical_quo, h.canonical_rem, canonical_norm _, h.law, h.rem_lt,
    fun k => by rw [coef_pAdd, coef_pMul]⟩

theorem euclidLoop_of_stops (K : Constants) (n : Nat) (rPrev vPrev : Poly)
    (h : EuclidStops e0 rCur vCur) :
    euclidLoop K e0 n rPrev rCur vPrev vCur = .ok (vCur, rCur) := by
  cases n with
  | zero => exact if_pos h
  | succ n => exact if_pos h

theorem euclidLoop_of_not_stops {n : Nat} {quo rem : Poly} (h : ¬ EuclidStops e0 rCur vCur)
    (hdiv : pDivmod K rPrev rCur = .ok (quo, rem)) :
    euclidLoop K e0 (n + 1) rPrev rCur vPrev vCur =
      euclidLoop K e0 n rCur rem vCur (pAdd vPrev (pMul K vCur quo)) := by
  refine (if_neg h).trans ?_
  rw [hdiv]
  rfl

/-- A pair that passes the stop test ends the run at once. -/
theorem exists_euclidRun_of_stops (fuel : Nat) (rPrev vPrev : Poly)
    (hstop : EuclidStops e0 rCur vCur) :
    ∃ (n : Nat) (r v : Nat → Poly), r 0 = rPrev ∧ r 1 = rCur ∧ v 0 = vPrev ∧ v 1 = vCur ∧
      EuclidRun K e0 n r v ∧
      euclidLoop K e0 fuel rPrev rCur vPrev vCur = .ok (v (n + 1), r (n + 1)) :=
  ⟨0, prepend rPrev fun _ => rCur, prepend vPrev fun _ => vCur, rfl, rfl, rfl, rfl,
    ⟨nofun, hstop⟩, euclidLoop_of_stops K fuel _ _ hstop⟩

/-- As many divisions as the remainder's degree suffice, and the loop answers the run's last
pair. -/
theorem exists_euclidRun (hK : ConstantsLegal K) (fuel : Nat)
    (h : EuclidInv e0 rPrev rCur vPrev vCur) (hfuel : deg rCur ≤ fuel) :
    ∃ (n : Nat) (r v : Nat → Poly), r 0 = rPrev ∧ r 1 = rCur ∧ v 0 = vPrev ∧ v 1 = vCur ∧
      EuclidRun K e0 n r v ∧
      euclidLoop K e0 fuel rPrev rCur vPrev vCur = .ok (v (n + 1), r (n + 1)) := by
  induction fuel generalizing rPrev rCur vPrev vCur with
  | zero =>
    exact exists_euclidRun_of_stops 0 rPrev vPrev
      (h.stops_iff.mpr (hfuel.trans (Nat.zero_le _)))
  | succ fuel ih =>
    by_cases hstop : EuclidStops e0 rCur vCur
    · exact exists_euclidRun_of_stops (fuel + 1) rPrev vPrev hstop
    have hgo : nu e0 < deg rCur := Nat.lt_of_not_le (mt h.stops_iff.mpr hstop)
    have hpos : 0 < deg rCur := Nat.zero_lt_of_lt hgo
    obtain ⟨quo, rem, hok, hdiv⟩ := exists_pDivmod_eq_ok hK h.canonical_rPrev h.canonical_rCur
      (ne_zero_of_deg_pos hpos)
    have hrem : deg rem ≤ fuel := by
      obtain rfl | hlt := hdiv.rem_lt
      · exact Nat.zero_le _
      · omega
    obtain ⟨n, r, v, hr0, hr1, hv0, hv1, hrun, hloop⟩ := ih (h.of_isDivision hK hgo hdiv) hrem
    refine ⟨n + 1, prepend rPrev r, prepend vPrev v, rfl, hr0, rfl, hv0, hrun.prepend ?_ ?_,
      (euclidLoop_of_not_stops hstop hok).trans hloop⟩
    · rwa [hr0, hv0]
    · rw [hr0, hr1, hv0, hv1]
      exact hdiv.euclidDivides vPrev vCur

/-! ### The operation -/

theorem rsEuclid_answers_raise {s : State} (hs : s.ready = true) {e0 : BitVec 6}
    (h : e0.toNat > 21 ∨ deg (polyA s) > 20) :
    Answers (.rsEuclid e0) s { status := .badOperand } := by
  rw [Answers, exec, execRsEuclid, if_pos h]
  exact finish_raise hs .badOperand

/-- A pair within the stop test's bounds fits the ports. -/
theorem length_le_of_euclidStops {r v : Poly} (he0 : e0 ≤ 21) (h : EuclidStops e0 r v) :
    v.length ≤ capacity ∧ r.length ≤ capacity := by
  obtain ⟨hr, hv⟩ := h
  unfold deg at hr hv
  unfold capacity
  omega

theorem rsEuclid_answers {s : State} (hs : s.ready = true) {e0 : BitVec 6}
    (he0 : e0.toNat ≤ 21) (hdeg : deg (polyA s) ≤ 20) {v r : Poly}
    (hok : rsEuclid s.const (polyA s) e0.toNat = .ok (v, r)) (hstop : EuclidStops e0.toNat r v) :
    Answers (.rsEuclid e0) s { status := .ok, vq := some v, vr := some r } := by
  obtain ⟨hv, hr⟩ := length_le_of_euclidStops he0 hstop
  rw [Answers, exec, execRsEuclid, if_neg (by omega), hok]
  simp only [bind, Except.bind, outPoly_ok hv, outPoly_ok hr]
  exact finish_ok hs _

/-- Settles O56: the seeds satisfy the invariant, under which 21 divisions suffice and the loop
answers the first pair that passes the stop test. -/
theorem rsEuclidFollowsTheRecurrences : Obligations.RsEuclidFollowsTheRecurrences := by
  refine ⟨fun a => decode_cmdWord (row := ⟨0x33#8, .ps, fun a _ => .rsEuclid a⟩)
    (by simp [opcodeMap]) nofun fun _ => rfl, fun s e0 hs => ⟨rsEuclid_answers_raise hs,
    fun hK he0 hdeg => ?_⟩⟩
  obtain ⟨n, r, v, hr0, hr1, hv0, hv1, ⟨hsteps, hstop⟩, hloop⟩ := exists_euclidRun hK 21
    (euclidInv_seeds he0 (canonical_polyA s) hdeg) (hdeg.trans (by decide))
  exact ⟨n, r, v, hr0, hr1, hv0, hv1, hsteps, hstop, rsEuclid_answers hs he0 hdeg hloop hstop⟩

end Sys2Proof.Machine
end

section
/-!
PROOFS. The field laws (40_field.md R103; 10_state.md R24): multiplying by a power of
alpha is repeating the step of the construction of `POW`, which is linear over XOR, so
multiplication distributes over addition.
-/

namespace Sys2Proof.Machine

open Sys2Proof.Safety

/-! ### Multiplication by a power of alpha is linear -/

/-- A value doubled and reduced: the reduction depends on the bit shifted out alone. -/
theorem timesAlpha_eq (q v : BitVec 7) :
    timesAlpha q v = v <<< 1 ^^^ (if (v <<< 1).getLsbD 6 then q else 0#7) := by
  unfold timesAlpha
  split
  · rfl
  · exact (BitVec.xor_zero).symm

theorem ite_xor (q : BitVec 7) (a b : Bool) :
    (if a ^^ b then q else 0#7) = (if a then q else 0#7) ^^^ (if b then q else 0#7) := by
  cases a <;> cases b <;> simp

theorem timesAlpha_xor (q v w : BitVec 7) :
    timesAlpha q (v ^^^ w) = timesAlpha q v ^^^ timesAlpha q w := by
  simp only [timesAlpha_eq, BitVec.shiftLeft_xor_distrib, BitVec.getLsbD_xor, ite_xor]
  ac_rfl

theorem alphaSteps_xor (q : BitVec 7) (n : Nat) (v w : BitVec 7) :
    alphaSteps q n (v ^^^ w) = alphaSteps q n v ^^^ alphaSteps q n w := by
  induction n generalizing v w with
  | zero => rfl
  | succ n ih => rw [alphaSteps, timesAlpha_xor, ih]; rfl

/-- A symbol after `n` steps of the construction of `POW`. -/
def symSteps (q : BitVec 7) (n : Nat) (x : Sym) : Sym :=
  (alphaSteps q n (x.setWidth 7)).setWidth 6

theorem symSteps_xor (q : BitVec 7) (n : Nat) (x y : Sym) :
    symSteps q n (x ^^^ y) = symSteps q n x ^^^ symSteps q n y := by
  rw [symSteps, BitVec.setWidth_xor, alphaSteps_xor, BitVec.setWidth_xor]
  rfl

theorem symSteps_zero (q : BitVec 7) (n : Nat) : symSteps q n 0#6 = 0#6 := by
  rw [symSteps, BitVec.setWidth_zero, alphaSteps_zero_value, BitVec.setWidth_zero]

theorem setWidth_setWidth_of_msb {v : BitVec 7} (hv : v.getLsbD 6 = false) :
    (v.setWidth 6).setWidth 7 = v := by
  decide +revert

/-- The construction returns to 1 after 63 steps. -/
theorem alphaSteps_mod {q : BitVec 7} (hreturn : alphaSteps q 63 1#7 = 1#7) (e : Nat) :
    alphaSteps q (e % 63) 1#7 = alphaSteps q e 1#7 := by
  have hperiodic : Function.Periodic (fun e => alphaSteps q e 1#7) 63 := fun e => by
    simp only [Nat.add_comm e 63, alphaSteps_add, hreturn]
  exact hperiodic.map_mod_nat e

theorem alphaPow_build {p : Params} (hp : paramsLegal p = true) (e : Nat) :
    alphaPow (Constants.build p) e = (alphaSteps p.primPoly e 1#7).setWidth 6 := by
  obtain ⟨-, hreturn, -⟩ := (paramsLegal_iff p).mp hp
  rw [alphaPow, powAt_build, getElem_powValues, alphaSteps_mod hreturn]

variable {K : Constants}

theorem exists_alphaPow_eq (hK : ConstantsLegal K) {x : Sym} (hx : x ≠ 0#6) :
    ∃ e, alphaPow K e = x :=
  ⟨_, alphaPow_logOf hK hx⟩

/-- Multiplying by `α^n` is taking `n` steps of the construction. -/
theorem gfMul_alphaPow_build {p : Params} (hp : paramsLegal p = true) (x : Sym) (n : Nat) :
    gfMul (Constants.build p) x (alphaPow (Constants.build p) n) = symSteps p.primPoly n x := by
  have hK : ConstantsLegal (Constants.build p) := ⟨p, hp, rfl⟩
  obtain ⟨hdegree, -⟩ := (paramsLegal_iff p).mp hp
  by_cases hx : x = 0#6
  · rw [hx, gfMul_zero_left, symSteps_zero]
  · obtain ⟨m, rfl⟩ := exists_alphaPow_eq hK hx
    rw [gfMul_alphaPow hK, alphaPow_build hp, alphaPow_build hp, symSteps,
      setWidth_setWidth_of_msb (alphaSteps_msb hdegree rfl m), alphaSteps_add]

/-! ### The laws -/

/-- Multiplication distributes over addition. -/
theorem gfMul_xor_left (hK : ConstantsLegal K) (a b c : Sym) :
    gfMul K (a ^^^ b) c = gfMul K a c ^^^ gfMul K b c := by
  by_cases hc : c = 0#6
  · simp only [hc, gfMul_zero_right, BitVec.xor_self]
  · obtain ⟨n, rfl⟩ := exists_alphaPow_eq hK hc
    obtain ⟨p, hp, rfl⟩ := hK
    simp only [gfMul_alphaPow_build hp, symSteps_xor]

theorem gfMul_xor_right (hK : ConstantsLegal K) (a b c : Sym) :
    gfMul K a (b ^^^ c) = gfMul K a b ^^^ gfMul K a c := by
  simp only [gfMul_comm K a, gfMul_xor_left hK]

theorem gfMul_assoc (hK : ConstantsLegal K) (a b c : Sym) :
    gfMul K (gfMul K a b) c = gfMul K a (gfMul K b c) := by
  by_cases ha : a = 0#6
  · simp only [ha, gfMul_zero_left]
  by_cases hb : b = 0#6
  · simp only [hb, gfMul_zero_left, gfMul_zero_right]
  by_cases hc : c = 0#6
  · simp only [hc, gfMul_zero_right]
  obtain ⟨l, rfl⟩ := exists_alphaPow_eq hK ha
  obtain ⟨m, rfl⟩ := exists_alphaPow_eq hK hb
  obtain ⟨n, rfl⟩ := exists_alphaPow_eq hK hc
  simp only [gfMul_alphaPow hK, Nat.add_assoc]

theorem xorSum_gfMul (hK : ConstantsLegal K) (f : Nat → Sym) (c : Sym) (n : Nat) :
    xorSum (fun i => gfMul K (f i) c) n = gfMul K (xorSum f n) c := by
  induction n with
  | zero => exact (gfMul_zero_left K c).symm
  | succ n ih => rw [xorSum_succ, xorSum_succ, ih, gfMul_xor_left hK]

theorem gfMul_eq_zero (hK : ConstantsLegal K) {a b : Sym} (h : gfMul K a b = 0#6) :
    a = 0#6 ∨ b = 0#6 := by
  by_contra hne
  obtain ⟨ha, hb⟩ := not_or.mp hne
  exact gfMul_ne_zero hK ha hb h

end Sys2Proof.Machine
end

section
/-!
PROOFS. The number of roots, which bounds the count of located positions (43_decoder_stages.md
R182): a polynomial is, up to its value at a point, a multiple of that point's linear factor, so one
with as many roots as coefficients is zero.
-/

namespace Sys2Proof.Machine

open Sys2Proof.Safety

variable {K : Constants}

/-- The value by Horner's rule. -/
theorem polyValue_cons (hK : ConstantsLegal K) (c : Sym) (cs : List Sym) (x : Sym) :
    polyValue K (c :: cs) x = c ^^^ gfMul K (polyValue K cs x) x := by
  rw [polyValue, List.length_cons, xorSum_shift, polyValue, ← xorSum_gfMul hK]
  congr 1
  · exact gfMul_one hK c
  · exact xorSum_congr fun i _ => by rw [coef_cons_succ, power, gfMul_assoc hK]

theorem polyValue_nil (K : Constants) (x : Sym) : polyValue K [] x = 0#6 := rfl

theorem polyValue_eq_zero_of_coef {p : List Sym} (h : ∀ i, coef p i = 0#6) (x : Sym) :
    polyValue K p x = 0#6 :=
  xorSum_eq_zero fun i _ => by rw [h, gfMul_zero_left]

/-- The values of a sequence and of all it ends in: the quotient of `c :: p` by the linear factor of
the point. -/
def suffixValues (K : Constants) (x : Sym) : List Sym → List Sym
  | [] => []
  | c :: cs => polyValue K (c :: cs) x :: suffixValues K x cs

theorem length_suffixValues (K : Constants) (x : Sym) (p : List Sym) :
    (suffixValues K x p).length = p.length := by
  induction p with
  | nil => rfl
  | cons c cs ih => rw [suffixValues, List.length_cons, List.length_cons, ih]

theorem xor_xor_xor_eq (a b c d : Sym) : (c ^^^ a) ^^^ (c ^^^ b) = (d ^^^ b) ^^^ (a ^^^ d) :=
  calc (c ^^^ a) ^^^ (c ^^^ b)
    _ = (c ^^^ c) ^^^ (a ^^^ b) := by ac_rfl
    _ = (d ^^^ d) ^^^ (a ^^^ b) := by rw [BitVec.xor_self, BitVec.xor_self]
    _ = (d ^^^ b) ^^^ (a ^^^ d) := by ac_rfl

/-- The values at two points differ by a multiple of the points' difference. -/
theorem polyValue_xor_polyValue (hK : ConstantsLegal K) (c : Sym) (p : List Sym) (x y : Sym) :
    polyValue K (c :: p) y ^^^ polyValue K (c :: p) x =
      gfMul K (polyValue K (suffixValues K x p) y) (y ^^^ x) := by
  induction p generalizing c with
  | nil =>
    rw [polyValue_cons hK, polyValue_cons hK, suffixValues, polyValue_nil, polyValue_nil,
      gfMul_zero_left, gfMul_zero_left, gfMul_zero_left, BitVec.xor_self]
  | cons d p ih =>
    have hquo : gfMul K (gfMul K (polyValue K (suffixValues K x p) y) y) (y ^^^ x) =
        gfMul K (polyValue K (d :: p) y) y ^^^ gfMul K (polyValue K (d :: p) x) y := by
      rw [gfMul_assoc hK, gfMul_comm K y, ← gfMul_assoc hK, ← ih, gfMul_xor_left hK]
    rw [polyValue_cons hK c, polyValue_cons hK c, suffixValues,
      polyValue_cons hK _ (suffixValues K x p), gfMul_xor_left hK, hquo, gfMul_xor_right hK]
    exact xor_xor_xor_eq _ _ _ _

theorem coef_eq_zero_of_suffixValues (hK : ConstantsLegal K) (x : Sym) (p : List Sym)
    (h : ∀ i, coef (suffixValues K x p) i = 0#6) (i : Nat) : coef p i = 0#6 := by
  induction p generalizing i with
  | nil => rfl
  | cons c cs ih =>
    have htail := ih fun i => h (i + 1)
    cases i with
    | succ i => exact htail i
    | zero =>
      have hvalue : polyValue K (c :: cs) x = 0#6 := h 0
      rwa [polyValue_cons hK, polyValue_eq_zero_of_coef htail, gfMul_zero_left,
        BitVec.xor_zero] at hvalue

/-- A polynomial with as many roots as coefficients is zero. -/
theorem coef_eq_zero_of_roots (hK : ConstantsLegal K) {xs : List Sym} (hxs : xs.Nodup)
    {p : List Sym} (hlen : p.length ≤ xs.length) (hroots : ∀ x ∈ xs, polyValue K p x = 0#6)
    (i : Nat) : coef p i = 0#6 := by
  induction xs generalizing p i with
  | nil => exact coef_of_length_le (hlen.trans (Nat.zero_le i))
  | cons x xs ih =>
    cases p with
    | nil => rfl
    | cons c cs =>
      obtain ⟨hx, hxs⟩ := List.nodup_cons.mp hxs
      have hrootx := hroots x List.mem_cons_self
      have hquo : ∀ y ∈ xs, polyValue K (suffixValues K x cs) y = 0#6 := fun y hy => by
        have hdiff := polyValue_xor_polyValue hK c cs x y
        rw [hroots y (List.mem_cons_of_mem x hy), hrootx, BitVec.xor_self] at hdiff
        refine (gfMul_eq_zero hK hdiff.symm).resolve_right fun h0 => hx ?_
        rwa [← BitVec.xor_eq_zero_iff.mp h0]
      have htail := coef_eq_zero_of_suffixValues hK x cs (ih hxs
        (by rw [length_suffixValues]; exact Nat.le_of_succ_le_succ hlen) hquo)
      cases i with
      | succ i => exact htail i
      | zero =>
        rwa [polyValue_cons hK, polyValue_eq_zero_of_coef htail, gfMul_zero_left,
          BitVec.xor_zero] at hrootx

end Sys2Proof.Machine
end

section
/-!
PROOFS. Located positions and Forney's formula (43_decoder_stages.md R182, R183): the 63 evaluation
points are distinct, so no more of them are roots of the locator than its degree; at a located
position the derivative's value is not zero, so the division that gives the magnitude answers.
-/

namespace Sys2Proof.Machine

open Sys2Proof.Safety

variable {K : Constants} {l : Poly}

/-! ### Masks -/

theorem toList_eq_map_maskAt (m : Mask63) : m.toList = (List.range 63).map (maskAt m) := by
  refine List.ext_getElem (by simp) fun i hi _ => ?_
  rw [List.getElem_map, List.getElem_range, maskAt, List.getD_eq_getElem _ _ hi]

theorem popcount_eq_markedCount (m : Mask63) : popcount m = markedCount m := by
  rw [popcount, toList_eq_map_maskAt, List.count_eq_countP, List.countP_map,
    List.countP_eq_length_filter, markedCount]
  congr 2
  funext i
  simp

theorem maskAt_ofFn (f : Nat → Bool) {i : Nat} (hi : i < 63) :
    maskAt (Vector.ofFn fun k : Fin 63 => f k.val) i = f i := by
  simp [maskAt, hi]

/-! ### Located positions -/

/-- Sequences with the same coefficients have the same values. -/
theorem polyValue_congr (K : Constants) {p q : List Sym} (h : ∀ i, coef p i = coef q i) (x : Sym) :
    polyValue K p x = polyValue K q x := by
  simp only [polyValue, h]
  refine xorSum_eq_of_eq_zero (fun i hi => ?_) fun i hi => ?_
  · rw [← h, coef_of_length_le hi, gfMul_zero_left]
  · rw [coef_of_length_le hi, gfMul_zero_left]

theorem coef_derivative (p : List Sym) (i : Nat) :
    coef (derivative p) i = if i % 2 = 0 then coef p (i + 1) else 0#6 := by
  rw [derivative, coef_map_range]
  by_cases hi : i < p.length
  · exact if_pos hi
  · rw [if_neg hi, coef_of_length_le (p := p) (by omega), ite_self]

/-- The derivative as the rule gives it has the values of `p_deriv`. -/
theorem polyValue_derivative (K : Constants) (p : Poly) (x : Sym) :
    polyValue K (derivative p) x = polyValue K (pDeriv p) x :=
  polyValue_congr K (fun i => (coef_derivative p i).trans (coef_pDeriv p i).symm) x

theorem locatedAt_iff (hK : ConstantsLegal K) (l : Poly) (i : Nat) :
    locatedAt K l (pDeriv l) i = true ↔
      polyValue K l (locatorPoint K i) = 0#6 ∧
        polyValue K (derivative l) (locatorPoint K i) ≠ 0#6 := by
  rw [locatedAt, Bool.and_eq_true, beq_iff_eq, bne_iff_ne, pEval_eq_polyValue hK,
    pEval_eq_polyValue hK, polyValue_derivative]

theorem maskAt_rsRoots (K : Constants) (l : Poly) {i : Nat} (hi : i < 63) :
    maskAt (rsRoots K l) i = locatedAt K l (pDeriv l) i :=
  maskAt_ofFn _ hi

theorem maskAt_rsRoots_iff (hK : ConstantsLegal K) (l : Poly) {i : Nat} (hi : i < 63) :
    maskAt (rsRoots K l) i = true ↔
      polyValue K l (locatorPoint K i) = 0#6 ∧
        polyValue K (derivative l) (locatorPoint K i) ≠ 0#6 := by
  rw [maskAt_rsRoots K l hi, locatedAt_iff hK]

/-- Different positions have different evaluation points (20_memory.md R53). -/
theorem locatorPoint_inj (hK : ConstantsLegal K) {i j : Nat} (hi : i < 63) (hj : j < 63)
    (h : locatorPoint K i = locatorPoint K j) : i = j := by
  have hexponent : (63 - i) % 63 % 63 = (63 - j) % 63 % 63 := Fin.mk.inj (powAt_injective hK h)
  omega

/-- The located positions' points are distinct roots of the locator. -/
theorem markedCount_rsRoots_le (hK : ConstantsLegal K) (hl : Poly.canonical l = true)
    (h0 : l ≠ [0#6]) : markedCount (rsRoots K l) ≤ deg l := by
  have hdeg := deg_add_one_of_canonical hl
  by_contra hgt
  have hlt : ∀ i ∈ (List.range 63).filter (maskAt (rsRoots K l)), i < 63 := fun i hi =>
    List.mem_range.mp (List.mem_filter.mp hi).1
  have hnodup : (((List.range 63).filter (maskAt (rsRoots K l))).map (locatorPoint K)).Nodup :=
    (List.nodup_range.filter _).map_on fun i hi j hj => locatorPoint_inj hK (hlt i hi) (hlt j hj)
  refine h0 ((eq_zero_iff_of_canonical hl).mpr (coef_eq_zero_of_roots hK hnodup ?_ ?_))
  · rw [List.length_map, ← markedCount]
    omega
  · refine List.forall_mem_map.mpr fun i hi => ?_
    exact ((maskAt_rsRoots_iff hK l (hlt i hi)).mp (List.mem_filter.mp hi).2).1

/-- Settles O47: the mask is the located positions themselves, whose points are distinct roots of
the operand. -/
theorem rsRootsFindsTheSimpleRoots : Obligations.RsRootsFindsTheSimpleRoots := by
  refine ⟨by decide, fun s hs hK => ⟨rsRoots s.const (polyA s), ?_,
    fun i hi => maskAt_rsRoots_iff hK _ hi, markedCount_rsRoots_le hK (canonical_polyA s)⟩⟩
  rw [← popcount_eq_markedCount]
  exact finish_ok hs _

/-! ### Forney's formula -/

/-- The magnitude of a position: at a located one the quotient of the evaluator's and the
derivative's values, 0 elsewhere (43_decoder_stages.md R183). -/
structure IsMagnitude (K : Constants) (l w d : Poly) (i : Nat) (e : Sym) : Prop where
  of_located : locatedAt K l d i = true →
    gfMul K e (pEval K d (locatorPoint K i)) = pEval K w (locatorPoint K i)
  of_not_located : locatedAt K l d i = false → e = 0#6

theorem pEval_ne_zero_of_locatedAt {d : Poly} {i : Nat} (h : locatedAt K l d i = true) :
    pEval K d (locatorPoint K i) ≠ 0#6 :=
  bne_iff_ne.mp (Bool.and_eq_true_iff.mp h).2

/-- At each listed position the loop answers its magnitude. -/
theorem magnitudes_eq_ok (hK : ConstantsLegal K) (l w d : Poly) (is : List Nat) :
    ∃ es, magnitudes K l w d is = .ok es ∧ List.Forall₂ (IsMagnitude K l w d) is es := by
  induction is with
  | nil => exact ⟨[], rfl, .nil⟩
  | cons i is ih =>
    obtain ⟨es, hes, hall⟩ := ih
    by_cases hi : locatedAt K l d i = true
    · obtain ⟨e, he, hmul⟩ := exists_gfDiv_eq hK (pEval K w (locatorPoint K i))
        (pEval_ne_zero_of_locatedAt hi)
      refine ⟨e :: es, ?_, .cons ⟨fun _ => hmul, fun h => absurd hi (Bool.eq_false_iff.mp h)⟩ hall⟩
      rw [magnitudes, if_pos hi, he, hes]
      rfl
    · refine ⟨0#6 :: es, ?_, .cons ⟨fun h => absurd h hi, fun _ => rfl⟩ hall⟩
      rw [magnitudes, if_neg hi, hes]
      rfl

theorem rsForney_answers_raise {s : State} (hs : s.ready = true)
    (h : coef (polyA s) 0 = 0#6 ∨ deg (polyB s) ≥ deg (polyA s)) :
    Answers .rsForney s { status := .decodeFailure } := by
  have hfail : rsForney s.const (polyA s) (polyB s) = .error (.raise .decodeFailure) := by
    rw [rsForney, pEval, if_pos rfl]
    obtain h0 | hdeg := h
    · exact if_pos h0
    · rw [if_pos hdeg, ite_self]
  rw [Answers, exec, execRsForney, hfail]
  exact finish_raise hs .decodeFailure

theorem rsForney_answers {s : State} (hs : s.ready = true) (h0 : coef (polyA s) 0 ≠ 0#6)
    (hdeg : deg (polyB s) < deg (polyA s)) {e : List Sym}
    (he : magnitudes s.const (polyA s) (polyB s) (pDeriv (polyA s)) (List.range 63) = .ok e) :
    Answers .rsForney s
      { status := .ok, vr := some e, rm := some (rsRoots s.const (polyA s)),
        cr := some (BitVec.ofNat 6 (markedCount (rsRoots s.const (polyA s)))) } := by
  have hok : rsForney s.const (polyA s) (polyB s) =
      .ok (e, rsRoots s.const (polyA s), markedCount (rsRoots s.const (polyA s))) := by
    rw [rsForney, pEval, if_pos rfl, if_neg h0, if_neg (Nat.not_le.mpr hdeg), he,
      popcount_eq_markedCount]
    rfl
  rw [Answers, exec, execRsForney, hok]
  exact finish_ok hs _

/-- Settles O48: the two failure tests come first; else each of the 63 positions has its
magnitude. -/
theorem rsForneyComputesTheMagnitudes : Obligations.RsForneyComputesTheMagnitudes := by
  refine ⟨by decide, fun s hs hK => ⟨rsForney_answers_raise hs, fun h0 hdeg => ?_⟩⟩
  obtain ⟨e, he, hall⟩ := magnitudes_eq_ok hK (polyA s) (polyB s) (pDeriv (polyA s))
    (List.range 63)
  have hlen : e.length = 63 := hall.length_eq.symm.trans List.length_range
  refine ⟨e, _, rsForney_answers hs h0 hdeg he, hlen, fun i hi =>
    ⟨maskAt_rsRoots_iff hK _ hi, ?_⟩⟩
  have hmagnitude : IsMagnitude s.const (polyA s) (polyB s) (pDeriv (polyA s)) i (coef e i) := by
    have hie : i < e.length := hlen ▸ hi
    rw [coef_of_lt hie]
    simpa using hall.get (by simpa using hi) hie
  rw [maskAt_rsRoots _ _ hi, polyValue_derivative, ← pEval_eq_polyValue hK,
    ← pEval_eq_polyValue hK]
  exact ⟨hmagnitude.of_located, hmagnitude.of_not_located⟩

end Sys2Proof.Machine
end

section
/-!
PROOFS. `RS.DEC` on its ports (44_decoder_top.md R220 to R225): the length is tested before anything
is computed, and what the decoder answers or raises gives the response, of which both forms are
known.
-/

namespace Sys2Proof.Machine

open Sys2Proof.Safety

/-! ### The operation answers what the decoder does -/

theorem execRsDec_of_length_ne {s : State} (hla : s.ports.la ≠ 63#6) :
    execRsDec s = finishWith decodeFailed s (.error (.raise .badOperand)) := by
  have hlen : s.ports.la.toNat ≠ codeLength := fun h => hla (BitVec.eq_of_toNat_eq h)
  rw [execRsDec, if_pos hlen]

theorem execRsDec_of_length_eq {s : State} (hla : s.ports.la = 63#6) :
    execRsDec s =
      finishWith decodeFailed s
        (decodeSuccess <$> rsDec s.const (maskedWord s) s.ports.em) := by
  have hlen : s.ports.la.toNat = codeLength := congrArg BitVec.toNat hla
  rw [execRsDec, if_neg (not_not.mpr hlen)]
  rfl

theorem rsDec_answers {s : State} (hs : s.ready = true) (hla : s.ports.la = 63#6) {c : Word63}
    (hc : rsDec s.const (maskedWord s) s.ports.em = .ok c) :
    Answers .rsDec s { status := .ok, fr := some true, vr := some c.toList } := by
  rw [Answers, exec, execRsDec_of_length_eq hla, hc]
  exact finishWith_ok hs _ _

theorem rsDec_answers_raise {s : State} (hs : s.ready = true) (hla : s.ports.la = 63#6)
    {c : Status} (hc : rsDec s.const (maskedWord s) s.ports.em = .error (.raise c)) :
    Answers .rsDec s { status := c, fr := some false } := by
  rw [Answers, exec, execRsDec_of_length_eq hla, hc]
  exact finishWith_raise hs _ _

theorem rsDec_answers_badOperand {s : State} (hs : s.ready = true) (hla : s.ports.la ≠ 63#6) :
    Answers .rsDec s { status := .badOperand, fr := some false } := by
  rw [Answers, exec, execRsDec_of_length_ne hla]
  exact finishWith_raise hs _ _

/-! ### No raised status is `OK` -/

/-- A computation that raises, raises an error's status. -/
def NeverRaisesOk {α : Type} (x : Except Abort α) : Prop := x ≠ .error (.raise .ok)

theorem neverRaisesOk_ok {α : Type} (a : α) : NeverRaisesOk (.ok a) := nofun

theorem neverRaisesOk_raise {α : Type} {c : Status} (hc : c ≠ .ok) :
    NeverRaisesOk (.error (.raise c) : Except Abort α) := fun h => by
  injection h with h
  exact hc (Abort.raise.inj h)

theorem NeverRaisesOk.bind {α β : Type} {x : Except Abort α} {f : α → Except Abort β}
    (hx : NeverRaisesOk x) (hf : ∀ a, NeverRaisesOk (f a)) : NeverRaisesOk (x >>= f) := by
  cases x with
  | ok a => exact hf a
  | error e => exact fun h => hx (by injection h with h; rw [h])

theorem neverRaisesOk_ite {α : Type} {p : Prop} [Decidable p] {x y : Except Abort α}
    (hx : NeverRaisesOk x) (hy : NeverRaisesOk y) : NeverRaisesOk (if p then x else y) := by
  split
  · exact hx
  · exact hy

theorem neverRaisesOk_gfDiv (K : Constants) (a b : Sym) : NeverRaisesOk (gfDiv K a b) := by
  unfold gfDiv
  split
  · exact neverRaisesOk_raise nofun
  · split
    · exact neverRaisesOk_ok _
    · exact neverRaisesOk_ok _

theorem neverRaisesOk_divLoop (K : Constants) (q : Poly) (n : Nat) (rem quo : List Sym) :
    NeverRaisesOk (divLoop K q n rem quo) := by
  induction n generalizing rem quo with
  | zero => exact neverRaisesOk_ok _
  | succ n ih =>
    exact neverRaisesOk_ite (ih _ _) ((neverRaisesOk_gfDiv K _ _).bind fun _ => ih _ _)

theorem neverRaisesOk_pDivmod (K : Constants) (p q : Poly) : NeverRaisesOk (pDivmod K p q) :=
  neverRaisesOk_ite (neverRaisesOk_raise nofun) <| neverRaisesOk_ite (neverRaisesOk_ok _) <|
    (neverRaisesOk_divLoop K q _ _ _).bind fun _ => neverRaisesOk_ok _

theorem neverRaisesOk_euclidLoop (K : Constants) (e0 n : Nat) (rPrev rCur vPrev vCur : Poly) :
    NeverRaisesOk (euclidLoop K e0 n rPrev rCur vPrev vCur) := by
  induction n generalizing rPrev rCur vPrev vCur with
  | zero => exact neverRaisesOk_ite (neverRaisesOk_ok _) nofun
  | succ n ih =>
    exact neverRaisesOk_ite (neverRaisesOk_ok _)
      ((neverRaisesOk_pDivmod K _ _).bind fun _ => ih _ _ _ _)

theorem neverRaisesOk_magnitudes (K : Constants) (l w d : Poly) (is : List Nat) :
    NeverRaisesOk (magnitudes K l w d is) := by
  induction is with
  | nil => exact neverRaisesOk_ok _
  | cons i is ih =>
    have hrest : ∀ e : Sym, NeverRaisesOk (magnitudes K l w d is >>= fun es => pure (e :: es)) :=
      fun e => ih.bind fun _ => neverRaisesOk_ok _
    exact neverRaisesOk_ite ((neverRaisesOk_gfDiv K _ _).bind hrest) (hrest _)

theorem neverRaisesOk_rsForney (K : Constants) (l w : Poly) : NeverRaisesOk (rsForney K l w) :=
  neverRaisesOk_ite (neverRaisesOk_raise nofun) <| neverRaisesOk_ite (neverRaisesOk_raise nofun) <|
    (neverRaisesOk_magnitudes K _ _ _ _).bind fun _ => neverRaisesOk_ok _

theorem neverRaisesOk_rsErasloc (K : Constants) (em : Mask63) :
    NeverRaisesOk (rsErasloc K em) :=
  neverRaisesOk_ite (neverRaisesOk_raise nofun) (neverRaisesOk_ok _)

theorem neverRaisesOk_correctErrors (K : Constants) (w : Word63) (em : Mask63) (synd : Poly) :
    NeverRaisesOk (correctErrors K w em synd) :=
  (neverRaisesOk_rsErasloc K em).bind fun _ =>
    (neverRaisesOk_euclidLoop K _ _ _ _ _ _).bind fun _ =>
      (neverRaisesOk_rsForney K _ _).bind fun _ =>
        neverRaisesOk_ite (neverRaisesOk_raise nofun) (neverRaisesOk_ok _)

theorem neverRaisesOk_rsDec (K : Constants) (w : Word63) (em : Mask63) :
    NeverRaisesOk (rsDec K w em) :=
  neverRaisesOk_ite (neverRaisesOk_ok _) (neverRaisesOk_correctErrors K w em _)

/-! ### The two forms of a response -/

/-- `RS.DEC` answers a codeword or, on a status other than `OK`, none. -/
theorem execRsDec_next {s t : State} (h : execRsDec s = .next t) :
    (∃ c : Word63, t.resp = some (decodeSuccess c)) ∨
      ∃ c : Status, c ≠ .ok ∧ t.resp = some (decodeFailed c) := by
  by_cases hla : s.ports.la = 63#6
  · rw [execRsDec_of_length_eq hla] at h
    obtain ⟨-, ⟨r, hr, rfl⟩ | ⟨c, hc, rfl⟩⟩ := finishWith_next h
    · cases hdec : rsDec s.const (maskedWord s) s.ports.em with
      | ok c =>
        rw [hdec] at hr
        exact .inl ⟨c, congrArg some (Except.ok.inj hr).symm⟩
      | error e => rw [hdec] at hr; cases hr
    · refine .inr ⟨c, ?_, rfl⟩
      rintro rfl
      exact ((neverRaisesOk_rsDec s.const (maskedWord s) s.ports.em).bind
        fun c => neverRaisesOk_ok (decodeSuccess c)) hc
  · rw [execRsDec_of_length_ne hla] at h
    obtain ⟨-, ⟨r, hr, -⟩ | ⟨c, hc, rfl⟩⟩ := finishWith_next h
    · cases hr
    · cases hc
      exact .inr ⟨.badOperand, nofun, rfl⟩

/-- Settles O49: a response carries a codeword and `OK`, or a status other than `OK` alone. -/
theorem rsDecResponseForm : Obligations.RsDecResponseForm := by
  refine ⟨by decide, fun s hs => ⟨rsDec_answers_badOperand hs, fun t ht => ?_⟩⟩
  obtain ⟨c, hresp⟩ | ⟨c, hc, hresp⟩ := execRsDec_next ht
  · exact ⟨_, hresp, rfl, fun _ => ⟨_, rfl, Vector.length_toList⟩, fun h => absurd rfl h, rfl, rfl,
      rfl, rfl⟩
  · exact ⟨_, hresp, by simp [decodeFailed, hc], fun h => absurd h hc, fun _ => rfl, rfl, rfl, rfl,
      rfl⟩

/-! ### The capacity test -/

theorem rsDec_of_syndromes_zero (K : Constants) {w : Word63} (em : Mask63)
    (h : ∀ k < 21, syndrome K w (k + 1) = 0#6) : rsDec K w em = .ok w :=
  if_pos ((isZero_rsSynd_iff K w).mpr h)

theorem rsDec_of_syndrome_ne_zero (K : Constants) {w : Word63} (em : Mask63)
    (h : ∃ k < 21, syndrome K w (k + 1) ≠ 0#6) :
    rsDec K w em = correctErrors K w em (rsSynd K w) := by
  obtain ⟨k, hk, hne⟩ := h
  exact if_neg fun hzero => hne ((isZero_rsSynd_iff K w).mp hzero k hk)

theorem rsErasloc_of_lt (K : Constants) {em : Mask63} (h : 21 < markedCount em) :
    rsErasloc K em = .error (.raise .erasureCapacityExceeded) :=
  if_pos (h.trans_eq (popcount_eq_markedCount em).symm)

theorem rsErasloc_of_le (K : Constants) {em : Mask63} (h : markedCount em ≤ 21) :
    rsErasloc K em = .ok (erasureProduct K em 63, markedCount em) := by
  rw [← popcount_eq_markedCount] at h ⊢
  exact if_neg (Nat.not_lt.mpr h)

/-- Settles O51: past the fast path the first step is the erasure locator's, which refuses the
mask. -/
theorem rsDecCapacityExceeded : Obligations.RsDecCapacityExceeded := by
  intro s hs hla hsyndrome hcount
  refine rsDec_answers_raise hs hla ?_
  simp only [← syndrome_maskedWord] at hsyndrome
  rw [rsDec_of_syndrome_ne_zero _ _ hsyndrome, correctErrors, rsErasloc_of_lt _ hcount]
  rfl

end Sys2Proof.Machine
end

section
/-!
PROOFS. The decoding theory behind 43_decoder_stages.md R184, over any field of characteristic 2:
the locator and the evaluator of an error pattern solve the key equation, Forney's formula gives the
pattern back from them, and a short solution of the key equation is a multiple of theirs.
-/

namespace Sys2Proof.Machine

open Polynomial

variable {F : Type} [Field F]

/-! ### The locator and the evaluator of a pattern -/

/-- The locator of the positions in `s`: the point of position `i` is the inverse of `x i`. -/
noncomputable def locator (x : Nat → F) (s : Finset Nat) : F[X] := ∏ i ∈ s, (C (x i) * X + 1)

/-- The evaluator of the pattern that has the symbol `e i` at each position of `s`. -/
noncomputable def evaluator (x e : Nat → F) (s : Finset Nat) : F[X] :=
  ∑ i ∈ s, C (e i * x i) * locator x (s.erase i)

/-- The polynomial of the first `m` syndromes of the pattern. -/
noncomputable def patternSyndromes (m : Nat) (x e : Nat → F) (s : Finset Nat) : F[X] :=
  ∑ i ∈ s, C (e i * x i) * ∑ k ∈ Finset.range m, (C (x i) * X) ^ k

variable {x e : Nat → F} {s b : Finset Nat} {i m : Nat}

theorem coeff_patternSyndromes (m : Nat) (x e : Nat → F) (s : Finset Nat) (k : Nat) :
    (patternSyndromes m x e s).coeff k =
      if k < m then ∑ i ∈ s, e i * x i ^ (k + 1) else 0 := by
  simp only [patternSyndromes, finsetSum_coeff, mul_pow, ← C_pow, coeff_C_mul, coeff_X_pow,
    mul_ite, mul_one, mul_zero, Finset.sum_ite_eq, Finset.mem_range]
  split
  · exact Finset.sum_congr rfl fun i _ => by rw [pow_succ']; ring
  · exact Finset.sum_eq_zero fun _ _ => rfl

theorem locator_insert (x : Nat → F) (hi : i ∉ s) :
    locator x (insert i s) = (C (x i) * X + 1) * locator x s :=
  Finset.prod_insert hi

theorem locator_union (x : Nat → F) (h : Disjoint s b) :
    locator x (s ∪ b) = locator x s * locator x b :=
  Finset.prod_union h

theorem locator_eq_mul_locator_erase (x : Nat → F) (hi : i ∈ s) :
    locator x s = (C (x i) * X + 1) * locator x (s.erase i) :=
  (Finset.mul_prod_erase s _ hi).symm

theorem natDegree_linearFactor (hx : x i ≠ 0) : (C (x i) * X + 1 : F[X]).natDegree = 1 := by
  rw [← C_1, natDegree_linear hx]

theorem linearFactor_ne_zero (hx : x i ≠ 0) : (C (x i) * X + 1 : F[X]) ≠ 0 :=
  ne_zero_of_natDegree_gt ((natDegree_linearFactor hx).symm ▸ Nat.zero_lt_one)

theorem natDegree_locator (hx : ∀ i, x i ≠ 0) (s : Finset Nat) :
    (locator x s).natDegree = s.card := by
  rw [locator, natDegree_prod _ _ fun i _ => linearFactor_ne_zero (hx i),
    Finset.sum_congr rfl fun i _ => natDegree_linearFactor (hx i), Finset.card_eq_sum_ones]

theorem locator_ne_zero (hx : ∀ i, x i ≠ 0) (s : Finset Nat) : locator x s ≠ 0 :=
  Finset.prod_ne_zero_iff.mpr fun i _ => linearFactor_ne_zero (hx i)

theorem eval_locator (x : Nat → F) (s : Finset Nat) (y : F) :
    (locator x s).eval y = ∏ i ∈ s, (x i * y + 1) := by
  simp only [locator, eval_prod, eval_add, eval_mul, eval_C, eval_X, eval_one]

theorem eval_zero_locator (x : Nat → F) (s : Finset Nat) : (locator x s).eval 0 = 1 := by
  simp only [eval_locator, mul_zero, zero_add, Finset.prod_const_one]

theorem natDegree_evaluator_le (hx : ∀ i, x i ≠ 0) (e : Nat → F) (s : Finset Nat) :
    (evaluator x e s).natDegree ≤ s.card - 1 := by
  refine natDegree_sum_le_of_forall_le _ _ fun i hi => (natDegree_C_mul_le _ _).trans ?_
  rw [natDegree_locator hx, Finset.card_erase_of_mem hi]

/-! ### Values at the points of the positions, in characteristic 2 -/

variable [CharP F 2]

theorem eval_inv_locator_eq_zero_iff (hx : x i ≠ 0) (s : Finset Nat) :
    (locator x s).eval (x i)⁻¹ = 0 ↔ ∃ k ∈ s, x k = x i := by
  have hfactor : ∀ k, x k * (x i)⁻¹ + 1 = 0 ↔ x k = x i := fun k => by
    rw [CharTwo.add_eq_zero, mul_inv_eq_one₀ hx]
  simp only [eval_locator, Finset.prod_eq_zero_iff, hfactor]

theorem eval_inv_locator_erase_ne_zero (hx : x i ≠ 0) (hinj : Set.InjOn x s) (hi : i ∈ s) :
    (locator x (s.erase i)).eval (x i)⁻¹ ≠ 0 := by
  rw [Ne, eval_inv_locator_eq_zero_iff hx]
  rintro ⟨k, hk, hki⟩
  obtain ⟨hne, hk⟩ := Finset.mem_erase.mp hk
  exact hne (hinj hk hi hki)

theorem eval_inv_linearFactor (hx : x i ≠ 0) : (C (x i) * X + 1 : F[X]).eval (x i)⁻¹ = 0 := by
  rw [eval_add, eval_mul, eval_C, eval_X, eval_one, mul_inv_cancel₀ hx, CharTwo.add_self_eq_zero]

theorem eval_inv_derivative_locator (hx : x i ≠ 0) (hi : i ∈ s) :
    (derivative (locator x s)).eval (x i)⁻¹ =
      x i * (locator x (s.erase i)).eval (x i)⁻¹ := by
  have hfactor : derivative (C (x i) * X + 1 : F[X]) = C (x i) := by
    rw [derivative_add, derivative_C_mul, derivative_X, mul_one, derivative_one, add_zero]
  rw [locator_eq_mul_locator_erase x hi, derivative_mul, hfactor, eval_add, eval_mul, eval_mul,
    eval_inv_linearFactor hx, zero_mul, add_zero, eval_C]

/-- The positions' points are simple roots of their locator. -/
theorem eval_inv_derivative_locator_ne_zero (hx : x i ≠ 0) (hinj : Set.InjOn x s) (hi : i ∈ s) :
    (derivative (locator x s)).eval (x i)⁻¹ ≠ 0 := by
  rw [eval_inv_derivative_locator hx hi]
  exact mul_ne_zero hx (eval_inv_locator_erase_ne_zero hx hinj hi)

/-- Forney's formula (43_decoder_stages.md R183): of the evaluator's terms only that of the position
itself has a value at the position's point. -/
theorem eval_inv_evaluator (hx : x i ≠ 0) (e : Nat → F) (hi : i ∈ s) :
    (evaluator x e s).eval (x i)⁻¹ = e i * (derivative (locator x s)).eval (x i)⁻¹ := by
  have hother : ∀ k ∈ s, k ≠ i →
      (C (e k * x k) * locator x (s.erase k)).eval (x i)⁻¹ = 0 := fun k _ hki => by
    rw [eval_mul, (eval_inv_locator_eq_zero_iff hx _).mpr
      ⟨i, Finset.mem_erase.mpr ⟨hki.symm, hi⟩, rfl⟩, mul_zero]
  rw [evaluator, eval_finsetSum, Finset.sum_eq_single_of_mem i hi hother, eval_mul, eval_C,
    eval_inv_derivative_locator hx hi, mul_assoc]

/-! ### The key equation -/

/-- The geometric sum of each position's syndromes telescopes against its factor of the locator. -/
theorem keyEquation (m : Nat) (x e : Nat → F) (s : Finset Nat) :
    X ^ m ∣ locator x s * patternSyndromes m x e s + evaluator x e s := by
  rw [patternSyndromes, evaluator, Finset.mul_sum, ← Finset.sum_add_distrib]
  refine Finset.dvd_sum fun i hi => ?_
  have hgeometric : (C (x i) * X + 1) * ∑ k ∈ Finset.range m, (C (x i) * X) ^ k + 1 =
      (C (x i) * X) ^ m := by
    have hsum := mul_neg_geom_sum (C (x i) * X) m
    rw [CharTwo.sub_eq_add, CharTwo.sub_eq_add, add_comm 1] at hsum
    rw [hsum, add_right_comm, CharTwo.add_self_eq_zero, zero_add]
  have hterm : locator x s * (C (e i * x i) * ∑ k ∈ Finset.range m, (C (x i) * X) ^ k) +
      C (e i * x i) * locator x (s.erase i) =
      C (e i * x i) * locator x (s.erase i) * (C (x i) * X) ^ m := by
    rw [← hgeometric, locator_eq_mul_locator_erase x hi]
    ring
  rw [hterm, mul_pow]
  exact ((dvd_refl _).mul_left _).mul_left _

/-- A factor of the locator moves to the syndromes, which may be reduced modulo `X ^ m`
(43_decoder_stages.md R178). -/
theorem dvd_keyEquation_of_modified {l g p t w : F[X]} (hkey : X ^ m ∣ l * g * p + w)
    (ht : X ^ m ∣ g * p + t) : X ^ m ∣ l * t + w := by
  have hsum : l * t + w = (l * g * p + w) + l * (g * p + t) := by
    linear_combination -(l * g * p) * CharTwo.two_eq_zero (R := F[X])
  rw [hsum]
  exact dvd_add hkey (ht.mul_left l)

/-- A pattern on at most `m` positions whose first `m` syndromes are all zero is zero. -/
theorem eq_zero_of_syndromes_eq_zero (hx : ∀ i, x i ≠ 0) (hinj : Set.InjOn x s)
    (hcard : s.card ≤ m) (h : ∀ k < m, ∑ i ∈ s, e i * x i ^ (k + 1) = 0) (hi : i ∈ s) :
    e i = 0 := by
  have hsyndromes : patternSyndromes m x e s = 0 := Polynomial.ext fun k => by
    rw [coeff_patternSyndromes, coeff_zero]
    exact ite_eq_right_iff.mpr (h k)
  have hkey := keyEquation m x e s
  rw [hsyndromes, mul_zero, zero_add] at hkey
  have hevaluator : evaluator x e s = 0 := eq_zero_of_dvd_of_natDegree_lt hkey <| by
    have hdeg := natDegree_evaluator_le hx e s
    have hpos := Finset.card_pos.mpr ⟨i, hi⟩
    rw [natDegree_X_pow]
    omega
  have hforney := eval_inv_evaluator (hx i) e hi
  rw [hevaluator, eval_zero] at hforney
  exact (mul_eq_zero.mp hforney.symm).resolve_right
    (eval_inv_derivative_locator_ne_zero (hx i) hinj hi)

/-- The locator of positions where the pattern is not zero shares no factor with the evaluator. -/
theorem isCoprime_locator_evaluator (hx : ∀ i, x i ≠ 0) (hinj : Set.InjOn x s) (hb : b ⊆ s)
    (he : ∀ i ∈ b, e i ≠ 0) : IsCoprime (locator x b) (evaluator x e s) := by
  refine IsCoprime.prod_left fun i hi => ?_
  have hirreducible : Irreducible (C (x i) * X + 1 : F[X]) := by
    refine irreducible_of_degree_eq_one ?_
    rw [← C_1, degree_linear (hx i)]
  refine hirreducible.coprime_iff_not_dvd.mpr ?_
  rintro ⟨q, hq⟩
  have hvalue := eval_inv_evaluator (hx i) e (hb hi)
  rw [hq, eval_mul, eval_inv_linearFactor (hx i), zero_mul] at hvalue
  exact mul_ne_zero (he i hi) (eval_inv_derivative_locator_ne_zero (hx i) hinj (hb hi)) hvalue.symm

/-! ### Solutions of the key equation -/

/-- What two successive pairs of the Euclidean solver satisfy (43_decoder_stages.md R181): both
solve the key equation of `t`, and their determinant is the modulus. -/
structure KeyPairs (m : Nat) (t rPrev rCur vPrev vCur : F[X]) : Prop where
  det : vCur * rPrev + vPrev * rCur = X ^ m
  prev : X ^ m ∣ vPrev * t + rPrev
  cur : X ^ m ∣ vCur * t + rCur

variable {t rPrev rCur vPrev vCur : F[X]}

theorem keyPairs_seeds (m : Nat) (t : F[X]) : KeyPairs m t (X ^ m) t 0 1 where
  det := by ring
  prev := by rw [zero_mul, zero_add]
  cur := by rw [one_mul, CharTwo.add_self_eq_zero]; exact dvd_zero _

/-- One division keeps it. -/
theorem KeyPairs.step (h : KeyPairs m t rPrev rCur vPrev vCur) {q rem : F[X]}
    (hdiv : rPrev = q * rCur + rem) : KeyPairs m t rCur rem vCur (vPrev + vCur * q) where
  det := by rw [← h.det, hdiv]; ring
  prev := h.cur
  cur := by
    have hsum : (vPrev + vCur * q) * t + rem =
        (vPrev * t + rPrev) + q * (vCur * t + rCur) := by
      linear_combination (-1 : F[X]) * hdiv - q * rCur * CharTwo.two_eq_zero (R := F[X])
    rw [hsum]
    exact dvd_add h.prev (h.cur.mul_left q)

/-- Two solutions of the key equation, multiplied crosswise, agree modulo `X ^ m`. -/
theorem dvd_cross_of_dvd {v r l w : F[X]} (hv : X ^ m ∣ v * t + r) (hl : X ^ m ∣ l * t + w) :
    X ^ m ∣ v * w + l * r := by
  have hsum : v * w + l * r = v * (l * t + w) + l * (v * t + r) := by
    linear_combination -(v * l * t) * CharTwo.two_eq_zero (R := F[X])
  rw [hsum]
  exact dvd_add (hl.mul_left v) (hv.mul_left l)

/-- A coprime solution `l`, `w` short enough against the solver's pair is a multiple of it by a
constant (43_decoder_stages.md R184): crosswise products below the modulus are equal, and the
determinant makes `l` a multiple of the solver's locator. -/
theorem KeyPairs.exists_eq_C_mul (h : KeyPairs m t rPrev rCur vPrev vCur) {l w : F[X]}
    (hl : X ^ m ∣ l * t + w) (hl0 : l ≠ 0) (hcoprime : IsCoprime l w)
    (hvw : vCur.natDegree + w.natDegree < m) (hlr : l.natDegree + rCur.natDegree < m) :
    ∃ a : F, a ≠ 0 ∧ l = C a * vCur ∧ w = C a * rCur := by
  have hcross : vCur * w + l * rCur = 0 := by
    refine eq_zero_of_dvd_of_natDegree_lt (dvd_cross_of_dvd h.cur hl) ?_
    rw [natDegree_X_pow]
    exact (natDegree_add_le _ _).trans_lt
      (max_lt (natDegree_mul_le.trans_lt hvw) (natDegree_mul_le.trans_lt hlr))
  obtain ⟨q, hq⟩ := dvd_cross_of_dvd h.prev hl
  have hlq : l = q * vCur := by
    refine mul_right_cancel₀ (pow_ne_zero m X_ne_zero) ?_
    linear_combination (-l) * h.det + vCur * hq + vPrev * hcross -
      vPrev * vCur * w * CharTwo.two_eq_zero (R := F[X])
  have hv0 : vCur ≠ 0 := right_ne_zero_of_mul (hlq ▸ hl0)
  have hwq : w = q * rCur := by
    refine mul_left_cancel₀ hv0 ?_
    rw [CharTwo.add_eq_zero.mp hcross, hlq]
    ring
  obtain ⟨a, ha, rfl⟩ := isUnit_iff.mp
    (hcoprime.isUnit_of_dvd' ⟨vCur, hlq⟩ ⟨rCur, hwq⟩)
  exact ⟨a, ha.ne_zero, hlq, hwq⟩

end Sys2Proof.Machine
end

section
/-!
PROOFS. The symbols as a field and the model's polynomials as polynomials over it (40_field.md R103,
41_poly.md R123 to R128): a statement about coefficients becomes an equation of polynomials.
-/

namespace Sys2Proof.Machine

open Polynomial
open Sys2Proof.Safety

variable {K : Constants}

/-! ### The field of the symbols -/

/-- `φ` takes XOR and `gf_mul` to the addition and the multiplication of a field. -/
structure IsFieldMap (K : Constants) {F : Type} [Field F] (φ : Sym → F) : Prop where
  map_xor : ∀ a b, φ (a ^^^ b) = φ a + φ b
  map_gfMul : ∀ a b, φ (gfMul K a b) = φ a * φ b
  map_one : φ 1#6 = 1
  injective : Function.Injective φ

/-- The symbols, apart from the arithmetic of bit vectors, as the carrier of a field. -/
def FieldSym : Type := Sym

/-- The quotient `1 / a`, and 0 for `a = 0`. -/
def gfInv (K : Constants) (a : Sym) : Sym := (gfDiv K 1#6 a).toOption.getD 0#6

theorem gfMul_gfInv (hK : ConstantsLegal K) {a : Sym} (ha : a ≠ 0#6) :
    gfMul K a (gfInv K a) = 1#6 := by
  obtain ⟨c, hc, hmul⟩ := exists_gfDiv_eq hK 1#6 ha
  rw [gfInv, hc, gfMul_comm]
  exact hmul

/-- The symbols with XOR and `gf_mul`. -/
abbrev gfField (hK : ConstantsLegal K) : Field FieldSym :=
  letI : Add FieldSym := ⟨gfAdd⟩
  letI : Mul FieldSym := ⟨gfMul K⟩
  letI : Neg FieldSym := ⟨id⟩
  letI : Inv FieldSym := ⟨gfInv K⟩
  letI : Zero FieldSym := ⟨0#6⟩
  letI : One FieldSym := ⟨1#6⟩
  { add_assoc := BitVec.xor_assoc
    zero_add := fun _ => BitVec.zero_xor
    add_zero := fun _ => BitVec.xor_zero
    add_comm := BitVec.xor_comm
    neg_add_cancel := fun _ => BitVec.xor_self
    mul_assoc := gfMul_assoc hK
    mul_comm := gfMul_comm K
    one_mul := fun a => (gfMul_comm K 1#6 a).trans (gfMul_one hK a)
    mul_one := gfMul_one hK
    zero_mul := gfMul_zero_left K
    mul_zero := gfMul_zero_right K
    left_distrib := gfMul_xor_right hK
    right_distrib := gfMul_xor_left hK
    mul_inv_cancel := fun _ => gfMul_gfInv hK
    inv_zero := rfl
    exists_pair_ne := ⟨0#6, 1#6, show 0#6 ≠ 1#6 by decide⟩
    nsmul := nsmulRec
    zsmul := zsmulRec
    nnqsmul := _
    qsmul := _ }

theorem exists_isFieldMap (hK : ConstantsLegal K) :
    ∃ (F : Type) (_ : Field F) (φ : Sym → F), IsFieldMap K φ :=
  letI := gfField hK
  ⟨FieldSym, inferInstance, id, fun _ _ => rfl, fun _ _ => rfl, rfl, Function.injective_id⟩

variable {F : Type} [Field F] {φ : Sym → F}

namespace IsFieldMap

theorem map_zero (h : IsFieldMap K φ) : φ 0#6 = 0 := by
  have hsum := h.map_xor 0#6 0#6
  rwa [BitVec.xor_self, left_eq_add] at hsum

theorem charP (h : IsFieldMap K φ) : CharP F 2 := by
  refine CharTwo.of_one_ne_zero_of_two_eq_zero one_ne_zero ?_
  rw [← one_add_one_eq_two, ← h.map_one, ← h.map_xor, BitVec.xor_self, h.map_zero]

theorem map_eq_zero_iff (h : IsFieldMap K φ) {a : Sym} : φ a = 0 ↔ a = 0#6 := by
  rw [← h.map_zero, h.injective.eq_iff]

theorem map_xorSum (h : IsFieldMap K φ) (f : Nat → Sym) (n : Nat) :
    φ (xorSum f n) = ∑ i ∈ Finset.range n, φ (f i) := by
  induction n with
  | zero => exact h.map_zero
  | succ n ih => rw [xorSum_succ, h.map_xor, ih, Finset.sum_range_succ]

theorem map_power (h : IsFieldMap K φ) (a : Sym) (n : Nat) : φ (power K a n) = φ a ^ n := by
  induction n with
  | zero => rw [power, h.map_one, pow_zero]
  | succ n ih => rw [power, h.map_gfMul, ih, pow_succ]

end IsFieldMap

/-! ### The model's polynomials over the field -/

/-- The polynomial with the coefficients of a sequence. -/
noncomputable def toPoly (φ : Sym → F) (p : List Sym) : F[X] :=
  ∑ i ∈ Finset.range p.length, C (φ (coef p i)) * X ^ i

namespace IsFieldMap

theorem coeff_toPoly (h : IsFieldMap K φ) (p : List Sym) (k : Nat) :
    (toPoly φ p).coeff k = φ (coef p k) := by
  simp only [toPoly, finsetSum_coeff, coeff_C_mul, coeff_X_pow, mul_ite, mul_one, mul_zero,
    Finset.sum_ite_eq, Finset.mem_range]
  split
  case isTrue => rfl
  case isFalse hk => rw [coef_of_length_le (Nat.le_of_not_lt hk), h.map_zero]

theorem toPoly_zero (h : IsFieldMap K φ) : toPoly φ [0#6] = 0 :=
  Polynomial.ext fun k => by rw [h.coeff_toPoly, coef_zero_poly, h.map_zero, coeff_zero]

theorem toPoly_one (h : IsFieldMap K φ) : toPoly φ [1#6] = 1 := by
  simp [toPoly, h.map_one]

theorem coeff_toPoly_mul (h : IsFieldMap K φ) (p q : List Sym) (k : Nat) :
    (toPoly φ p * toPoly φ q).coeff k = φ (productCoef K p q k) := by
  simp only [coeff_mul, Finset.Nat.sum_antidiagonal_eq_sum_range_succ_mk, h.coeff_toPoly,
    productCoef, h.map_xorSum, h.map_gfMul]

theorem toPoly_pMul (h : IsFieldMap K φ) (p q : Poly) :
    toPoly φ (pMul K p q) = toPoly φ p * toPoly φ q :=
  Polynomial.ext fun k => by rw [h.coeff_toPoly, coef_pMul, h.coeff_toPoly_mul]

/-- The law of a division or of a recurrence of the solver, as an equation of polynomials. -/
theorem toPoly_eq_mul_add (h : IsFieldMap K φ) {r p q a : List Sym}
    (hlaw : ∀ k, coef r k = productCoef K p q k ^^^ coef a k) :
    toPoly φ r = toPoly φ p * toPoly φ q + toPoly φ a :=
  Polynomial.ext fun k => by
    rw [h.coeff_toPoly, coeff_add, h.coeff_toPoly_mul, h.coeff_toPoly, hlaw, h.map_xor]

theorem eval_toPoly (h : IsFieldMap K φ) (p : List Sym) (y : Sym) :
    (toPoly φ p).eval (φ y) = φ (polyValue K p y) := by
  simp only [toPoly, eval_finsetSum, eval_mul, eval_C, eval_pow, eval_X, polyValue, h.map_xorSum,
    h.map_gfMul, h.map_power]

theorem natDegree_toPoly_le (h : IsFieldMap K φ) (p : List Sym) :
    (toPoly φ p).natDegree ≤ deg p :=
  natDegree_le_iff_coeff_eq_zero.mpr fun k hk => by
    rw [h.coeff_toPoly, coef_of_deg_lt hk, h.map_zero]

/-- The tracked degree is the degree. -/
theorem natDegree_toPoly (h : IsFieldMap K φ) {p : Poly} (hp : Poly.canonical p = true) :
    (toPoly φ p).natDegree = deg p := by
  refine (h.natDegree_toPoly_le p).antisymm ?_
  by_cases h0 : p = [0#6]
  · subst h0; exact Nat.zero_le _
  · refine le_natDegree_of_ne_zero ?_
    rw [h.coeff_toPoly, Ne, h.map_eq_zero_iff]
    exact lead_ne_zero_of_ne_zero hp h0

/-- `p_deriv` is the derivative: in characteristic 2 the factor `i + 1` is 0 or 1. -/
theorem toPoly_pDeriv (h : IsFieldMap K φ) (p : Poly) :
    toPoly φ (pDeriv p) = derivative (toPoly φ p) := by
  have := h.charP
  refine Polynomial.ext fun k => ?_
  rw [h.coeff_toPoly, coef_pDeriv, coeff_derivative, h.coeff_toPoly, ← Nat.cast_add_one,
    CharTwo.natCast_eq_ite]
  by_cases hk : k % 2 = 0
  · have hodd : ¬ Even (k + 1) := by rw [Nat.even_iff]; omega
    rw [if_pos hk, if_neg hodd, mul_one]
  · have heven : Even (k + 1) := by rw [Nat.even_iff]; omega
    rw [if_neg hk, if_pos heven, mul_zero, h.map_zero]

theorem map_pEval (h : IsFieldMap K φ) (hK : ConstantsLegal K) (p : Poly) (y : Sym) :
    φ (pEval K p y) = (toPoly φ p).eval (φ y) := by
  rw [pEval_eq_polyValue hK, h.eval_toPoly]

end IsFieldMap

/-! ### The values of products -/

theorem polyValue_pMul (hK : ConstantsLegal K) (p q : Poly) (y : Sym) :
    polyValue K (pMul K p q) y = gfMul K (polyValue K p y) (polyValue K q y) := by
  obtain ⟨F, _, φ, h⟩ := exists_isFieldMap hK
  refine h.injective ?_
  rw [h.map_gfMul, ← h.eval_toPoly, ← h.eval_toPoly, ← h.eval_toPoly, h.toPoly_pMul, eval_mul]

theorem polyValue_pSmul (hK : ConstantsLegal K) (p : Poly) (c y : Sym) :
    polyValue K (pSmul K p c) y = gfMul K (polyValue K p y) c := by
  obtain ⟨F, _, φ, h⟩ := exists_isFieldMap hK
  have hsmul : toPoly φ (pSmul K p c) = toPoly φ p * C (φ c) := Polynomial.ext fun k => by
    rw [h.coeff_toPoly, coef_pSmul, coeff_mul_C, h.coeff_toPoly, h.map_gfMul]
  refine h.injective ?_
  rw [h.map_gfMul, ← h.eval_toPoly, ← h.eval_toPoly, hsmul, eval_mul, eval_C]

/-! ### The points of the positions -/

theorem alphaPow_injOn (hK : ConstantsLegal K) :
    Set.InjOn (alphaPow K) (Finset.range 63 : Finset Nat) := fun i hi j hj hij => by
  have hi := Finset.mem_range.mp hi
  have hj := Finset.mem_range.mp hj
  have hmod : i % 63 = j % 63 := Fin.mk.inj (powAt_injective hK hij)
  rwa [Nat.mod_eq_of_lt hi, Nat.mod_eq_of_lt hj] at hmod

theorem gfMul_alphaPow_locatorPoint (hK : ConstantsLegal K) {i : Nat} (hi : i < 63) :
    gfMul K (alphaPow K i) (locatorPoint K i) = 1#6 := by
  have hexponent : (i + (63 - i) % 63) % 63 = 0 := by omega
  rw [locatorPoint, gfMul_alphaPow hK, ← alphaPow_mod, hexponent]
  exact powAt_zero hK

end Sys2Proof.Machine
end

section
/-!
PROOFS. The decoder's stages on a word within the bound of a codeword (43_decoder_stages.md R184):
each stage's result as a polynomial over the field, up to the error pattern Forney's formula gives.
-/

namespace Sys2Proof.Machine

open Polynomial
open Sys2Proof.Safety

variable {K : Constants} {F : Type} [Field F] {φ : Sym → F}

/-! ### The positions of a pattern -/

/-- `X_i = α^i`, in the field. -/
def posPow (K : Constants) (φ : Sym → F) (i : Nat) : F := φ (alphaPow K i)

/-- The symbol to add to the word at a position to have the codeword's. -/
def patternAt (φ : Sym → F) (w c : Word63) (i : Nat) : F :=
  φ (coef w.toList i ^^^ coef c.toList i)

def erasedSet (em : Mask63) : Finset Nat := {i ∈ Finset.range 63 | maskAt em i = true}

def errorSet (w c : Word63) (em : Mask63) : Finset Nat :=
  {i ∈ Finset.range 63 | maskAt em i = false ∧ coef w.toList i ≠ coef c.toList i}

/-- The positions that may differ from the codeword. -/
def patternSet (w c : Word63) (em : Mask63) : Finset Nat := errorSet w c em ∪ erasedSet em

variable {w c : Word63} {em : Mask63} {i : Nat}

theorem mem_erasedSet : i ∈ erasedSet em ↔ i < 63 ∧ maskAt em i = true := by
  rw [erasedSet, Finset.mem_filter, Finset.mem_range]

theorem mem_errorSet :
    i ∈ errorSet w c em ↔
      i < 63 ∧ maskAt em i = false ∧ coef w.toList i ≠ coef c.toList i := by
  rw [errorSet, Finset.mem_filter, Finset.mem_range]

theorem lt_of_mem_patternSet (hi : i ∈ patternSet w c em) : i < 63 :=
  (Finset.mem_union.mp hi).elim (fun h => (mem_errorSet.mp h).1) fun h => (mem_erasedSet.mp h).1

theorem patternSet_subset_range : patternSet w c em ⊆ Finset.range 63 := fun _ hi =>
  Finset.mem_range.mpr (lt_of_mem_patternSet hi)

theorem coef_eq_of_notMem_patternSet (hi : i < 63) (h : i ∉ patternSet w c em) :
    coef w.toList i = coef c.toList i := by
  obtain ⟨herror, herased⟩ := not_or.mp (mt Finset.mem_union.mpr h)
  by_contra hne
  exact herror (mem_errorSet.mpr ⟨hi, Bool.eq_false_iff.mpr fun hmark =>
    herased (mem_erasedSet.mpr ⟨hi, hmark⟩), hne⟩)

theorem disjoint_errorSet_erasedSet : Disjoint (errorSet w c em) (erasedSet em) :=
  Finset.disjoint_left.mpr fun i hi hi' => by
    obtain ⟨-, hfalse, -⟩ := mem_errorSet.mp hi
    obtain ⟨-, htrue⟩ := mem_erasedSet.mp hi'
    exact Bool.false_ne_true (hfalse.symm.trans htrue)

theorem card_filter_range (p : Nat → Bool) (n : Nat) :
    (Finset.filter (fun i => p i = true) (Finset.range n)).card =
      ((List.range n).filter p).length := by
  have hfilter : (List.range n).filter p = (List.range n).filter fun i => decide (p i = true) :=
    List.filter_congr fun i _ => Bool.decide_eq_true.symm
  rw [hfilter]
  rfl

theorem card_erasedSet (em : Mask63) : (erasedSet em).card = markedCount em :=
  card_filter_range (maskAt em) 63

theorem card_patternSet :
    (patternSet w c em).card = (errorSet w c em).card + markedCount em := by
  rw [patternSet, Finset.card_union_of_disjoint disjoint_errorSet_erasedSet, card_erasedSet]

namespace IsFieldMap

theorem posPow_ne_zero (h : IsFieldMap K φ) (hK : ConstantsLegal K) (i : Nat) :
    posPow K φ i ≠ 0 :=
  mt h.map_eq_zero_iff.mp (alphaPow_ne_zero hK i)

theorem posPow_injOn (h : IsFieldMap K φ) (hK : ConstantsLegal K) {s : Finset Nat}
    (hs : s ⊆ Finset.range 63) : Set.InjOn (posPow K φ) s := fun _ hi _ hj hij =>
  alphaPow_injOn hK (hs hi) (hs hj) (h.injective hij)

/-- The evaluation point of a position is the inverse of its power of alpha. -/
theorem map_locatorPoint (h : IsFieldMap K φ) (hK : ConstantsLegal K) (hi : i < 63) :
    φ (locatorPoint K i) = (posPow K φ i)⁻¹ := by
  refine eq_inv_of_mul_eq_one_right ?_
  rw [posPow, ← h.map_gfMul, gfMul_alphaPow_locatorPoint hK hi, h.map_one]

theorem patternAt_ne_zero (h : IsFieldMap K φ) (hi : i ∈ errorSet w c em) :
    patternAt φ w c i ≠ 0 := by
  obtain ⟨-, -, hne⟩ := mem_errorSet.mp hi
  exact mt h.map_eq_zero_iff.mp (mt BitVec.xor_eq_zero_iff.mp hne)

theorem patternAt_of_notMem (h : IsFieldMap K φ) (hi : i < 63) (hmem : i ∉ patternSet w c em) :
    patternAt φ w c i = 0 := by
  rw [patternAt, coef_eq_of_notMem_patternSet hi hmem, BitVec.xor_self, h.map_zero]

end IsFieldMap

/-! ### Syndromes -/

theorem syndrome_eq_polyValue (hK : ConstantsLegal K) (w : Word63) (j : Nat) :
    syndrome K w j = polyValue K w.toList (alphaPow K j) := by
  rw [polyValue, Vector.length_toList]
  exact xorSum_congr fun i _ => by rw [power_alphaPow hK]

theorem isCodeword_iff (hK : ConstantsLegal K) (c : Word63) :
    IsCodeword K c ↔ ∀ k < 21, syndrome K c (k + 1) = 0#6 := by
  simp only [IsCodeword, syndrome_eq_polyValue hK]

/-- The syndromes of the word are those of the pattern, since the codeword's are zero. -/
theorem IsFieldMap.map_syndrome (h : IsFieldMap K φ) (hK : ConstantsLegal K)
    (hc : IsCodeword K c) {k : Nat} (hk : k < 21) :
    φ (syndrome K w (k + 1)) =
      ∑ i ∈ patternSet w c em, patternAt φ w c i * posPow K φ i ^ (k + 1) := by
  have hterm : ∀ (v : Word63) i,
      φ (gfMul K (coef v.toList i) (alphaPow K (i * (k + 1)))) =
        φ (coef v.toList i) * posPow K φ i ^ (k + 1) := fun v i => by
    rw [h.map_gfMul, Nat.mul_comm, ← power_alphaPow hK, h.map_power, posPow]
  have hsum : ∀ v : Word63, φ (syndrome K v (k + 1)) =
      ∑ i ∈ Finset.range 63, φ (coef v.toList i) * posPow K φ i ^ (k + 1) := fun v => by
    rw [syndrome, h.map_xorSum, Finset.sum_congr rfl fun i _ => hterm v i]
  have hcode : φ (syndrome K c (k + 1)) = 0 :=
    h.map_eq_zero_iff.mpr ((isCodeword_iff hK c).mp hc k hk)
  calc φ (syndrome K w (k + 1))
    _ = φ (syndrome K w (k + 1)) + φ (syndrome K c (k + 1)) := by rw [hcode, add_zero]
    _ = ∑ i ∈ Finset.range 63, patternAt φ w c i * posPow K φ i ^ (k + 1) := by
      rw [hsum, hsum, ← Finset.sum_add_distrib]
      exact Finset.sum_congr rfl fun i _ => by rw [patternAt, h.map_xor, add_mul]
    _ = ∑ i ∈ patternSet w c em, patternAt φ w c i * posPow K φ i ^ (k + 1) :=
      (Finset.sum_subset patternSet_subset_range fun i hi hmem => by
        rw [h.patternAt_of_notMem (Finset.mem_range.mp hi) hmem, zero_mul]).symm

theorem IsFieldMap.toPoly_rsSynd (h : IsFieldMap K φ) (hK : ConstantsLegal K)
    (hc : IsCodeword K c) (w : Word63) (em : Mask63) :
    toPoly φ (rsSynd K w) =
      patternSyndromes 21 (posPow K φ) (patternAt φ w c) (patternSet w c em) :=
  Polynomial.ext fun k => by
    rw [h.coeff_toPoly, coef_rsSynd, coeff_patternSyndromes]
    split
    case isTrue hk => exact h.map_syndrome hK hc hk
    case isFalse => exact h.map_zero

/-! ### The erasure locator, and the operands of the solver -/

theorem erasureProduct_succ (K : Constants) (em : Mask63) (n : Nat) :
    erasureProduct K em (n + 1) =
      if maskAt em n = true then pMul K (erasureProduct K em n) [1#6, alphaPow K n]
      else erasureProduct K em n := rfl

theorem IsFieldMap.toPoly_erasureProduct (h : IsFieldMap K φ) (em : Mask63) :
    toPoly φ (erasureProduct K em 63) = locator (posPow K φ) (erasedSet em) := by
  have hfactor : ∀ n, toPoly φ [1#6, alphaPow K n] = C (posPow K φ n) * X + 1 := fun n => by
    simp [toPoly, Finset.sum_range_succ, h.map_one, posPow, add_comm]
  have hproduct : ∀ n, toPoly φ (erasureProduct K em n) =
      locator (posPow K φ) {i ∈ Finset.range n | maskAt em i = true} := fun n => by
    induction n with
    | zero => exact h.toPoly_one
    | succ n ih =>
      rw [erasureProduct_succ, Finset.range_add_one, Finset.filter_insert]
      by_cases hn : maskAt em n = true
      · rw [if_pos hn, if_pos hn, h.toPoly_pMul, ih, hfactor, locator_insert _ (by simp), mul_comm]
      · rw [if_neg hn, if_neg hn, ih]
  exact hproduct 63

theorem deg_rsModsynd_le (K : Constants) (g s : Poly) : deg (rsModsynd K g s) ≤ 20 := by
  have hcanonical : Poly.canonical (rsModsynd K g s) = true := canonical_norm _
  have hlen := length_le_of_canonical hcanonical (Nat.succ_pos 20) fun i hi => by
    rw [coef_rsModsynd, if_neg (by omega)]
  unfold deg
  omega

theorem IsFieldMap.toPoly_x21 (h : IsFieldMap K φ) : toPoly φ x21 = X ^ 21 :=
  Polynomial.ext fun k => by
    rw [h.coeff_toPoly, coeff_X_pow, x21, coef_replicate_append]
    obtain hlt | rfl | hgt := Nat.lt_trichotomy k 21
    · rw [if_pos hlt, if_neg hlt.ne, h.map_zero]
    · exact h.map_one
    · rw [if_neg hgt.not_gt, if_neg hgt.ne', coef_of_length_le (by simp; omega), h.map_zero]

theorem EuclidRun.canonical_last {e0 n : Nat} {r v : Nat → Poly} (hrun : EuclidRun K e0 n r v)
    (hr : Poly.canonical (r 1) = true) : Poly.canonical (r (n + 1)) = true := by
  cases n with
  | zero => exact hr
  | succ n =>
    obtain ⟨-, -, -, hr, -⟩ := hrun.1 n n.lt_succ_self
    exact hr

/-! ### The pattern's locator and evaluator, up to a factor -/

/-- The model's locator `l` and evaluator `r` are those of the pattern `e` on `s`, up to a common
factor. -/
structure LocatesPattern (K : Constants) (φ : Sym → F) (e : Nat → F) (s : Finset Nat) (l r : Poly) :
    Prop where
  canonical_l : Poly.canonical l = true
  canonical_r : Poly.canonical r = true
  subset : s ⊆ Finset.range 63
  nonempty : s.Nonempty
  scaled : ∃ a : F, a ≠ 0 ∧ locator (posPow K φ) s = C a * toPoly φ l ∧
    evaluator (posPow K φ) e s = C a * toPoly φ r

variable {e : Nat → F} {s : Finset Nat} {l r : Poly}

theorem LocatesPattern.deg_l (hp : LocatesPattern K φ e s l r) (h : IsFieldMap K φ)
    (hK : ConstantsLegal K) : deg l = s.card := by
  obtain ⟨a, ha, hl, -⟩ := hp.scaled
  rw [← natDegree_locator (h.posPow_ne_zero hK), hl, natDegree_C_mul ha,
    h.natDegree_toPoly hp.canonical_l]

theorem LocatesPattern.deg_r_lt (hp : LocatesPattern K φ e s l r) (h : IsFieldMap K φ)
    (hK : ConstantsLegal K) : deg r < deg l := by
  obtain ⟨a, ha, -, hr⟩ := hp.scaled
  have hle := natDegree_evaluator_le (h.posPow_ne_zero hK) e s
  rw [hr, natDegree_C_mul ha, h.natDegree_toPoly hp.canonical_r] at hle
  have hpos := hp.nonempty.card_pos
  rw [hp.deg_l h hK]
  omega

theorem LocatesPattern.coef_zero_ne_zero (hp : LocatesPattern K φ e s l r) (h : IsFieldMap K φ) :
    coef l 0 ≠ 0#6 := by
  obtain ⟨a, -, hl, -⟩ := hp.scaled
  intro h0
  have hone := eval_zero_locator (posPow K φ) s
  rw [hl, eval_mul, ← coeff_zero_eq_eval_zero (toPoly φ l), h.coeff_toPoly, h0, h.map_zero,
    mul_zero] at hone
  exact zero_ne_one hone

theorem exists_magnitudes_eq_ok (hK : ConstantsLegal K) (l r d : Poly) :
    ∃ es, magnitudes K l r d (List.range 63) = .ok es ∧
      ∀ i < 63, IsMagnitude K l r d i (coef es i) := by
  obtain ⟨es, hes, hall⟩ := magnitudes_eq_ok hK l r d (List.range 63)
  refine ⟨es, hes, fun i hi => ?_⟩
  have hrange : i < (List.range 63).length := by rwa [List.length_range]
  have hlen : i < es.length := hall.length_eq ▸ hrange
  have hmagnitude := hall.get hrange hlen
  rw [coef_of_lt hlen]
  simpa using hmagnitude

/-! ### The modified syndromes and the solver, in characteristic 2 -/

variable [CharP F 2]

theorem IsFieldMap.dvd_modsynd (h : IsFieldMap K φ) (g s : Poly) :
    X ^ 21 ∣ toPoly φ g * toPoly φ s + toPoly φ (rsModsynd K g s) := by
  refine X_pow_dvd_iff.mpr fun k hk => ?_
  rw [coeff_add, h.coeff_toPoly_mul, h.coeff_toPoly, coef_rsModsynd,
    if_pos (Nat.le_of_lt_succ hk), CharTwo.add_self_eq_zero]

/-- Along a run every two successive pairs solve the key equation. -/
theorem EuclidRun.keyPairs (h : IsFieldMap K φ) {e0 n : Nat} {r v : Nat → Poly}
    (hrun : EuclidRun K e0 n r v) {t : F[X]}
    (hseeds : KeyPairs 21 t (toPoly φ (r 0)) (toPoly φ (r 1)) (toPoly φ (v 0)) (toPoly φ (v 1)))
    {i : Nat} (hi : i ≤ n) :
    KeyPairs 21 t (toPoly φ (r i)) (toPoly φ (r (i + 1))) (toPoly φ (v i))
      (toPoly φ (v (i + 1))) := by
  induction i with
  | zero => exact hseeds
  | succ i ih =>
    obtain ⟨-, q, -, -, -, hr, -, hv⟩ := hrun.1 i hi
    have hlocator : toPoly φ (v (i + 2)) =
        toPoly φ (v i) + toPoly φ (v (i + 1)) * toPoly φ q := by
      rw [add_comm (toPoly φ (v i))]
      exact h.toPoly_eq_mul_add fun k => (hv k).trans (BitVec.xor_comm _ _)
    rw [hlocator]
    exact (ih (Nat.le_of_succ_le hi)).step (h.toPoly_eq_mul_add hr)

/-- The solver answers a pair that passes its stop test and solves the key equation, together with
the pair before it. -/
theorem IsFieldMap.exists_rsEuclid_eq_ok (h : IsFieldMap K φ) (hK : ConstantsLegal K) {e0 : Nat}
    (he0 : e0 ≤ 21) {t : Poly} (ht : Poly.canonical t = true) (hdeg : deg t ≤ 20) :
    ∃ (v r : Poly) (rPrev vPrev : F[X]), rsEuclid K t e0 = .ok (v, r) ∧
      Poly.canonical r = true ∧ EuclidStops e0 r v ∧
      KeyPairs 21 (toPoly φ t) rPrev (toPoly φ r) vPrev (toPoly φ v) := by
  obtain ⟨n, r, v, hr0, hr1, hv0, hv1, hrun, hloop⟩ := exists_euclidRun hK 21
    (euclidInv_seeds he0 ht hdeg) (hdeg.trans (by decide))
  have hseeds : KeyPairs 21 (toPoly φ t) (toPoly φ (r 0)) (toPoly φ (r 1)) (toPoly φ (v 0))
      (toPoly φ (v 1)) := by
    rw [hr0, hr1, hv0, hv1, h.toPoly_x21, h.toPoly_zero, h.toPoly_one]
    exact keyPairs_seeds 21 _
  exact ⟨_, _, _, _, hloop, hrun.canonical_last (hr1 ▸ ht), hrun.2,
    hrun.keyPairs h hseeds le_rfl⟩

/-! ### Forney's formula -/

/-- The located positions are the pattern's. -/
theorem LocatesPattern.locatedAt_iff (hp : LocatesPattern K φ e s l r) (h : IsFieldMap K φ)
    (hK : ConstantsLegal K) (hi : i < 63) : locatedAt K l (pDeriv l) i = true ↔ i ∈ s := by
  obtain ⟨a, ha, hl, -⟩ := hp.scaled
  have hinj := h.posPow_injOn hK hp.subset
  have hroot : pEval K l (locatorPoint K i) = 0#6 ↔ i ∈ s := by
    rw [← h.map_eq_zero_iff, h.map_pEval hK, h.map_locatorPoint hK hi,
      ← mul_eq_zero_iff_left ha, ← eval_C (a := a) (x := (posPow K φ i)⁻¹), ← eval_mul, ← hl,
      eval_inv_locator_eq_zero_iff (h.posPow_ne_zero hK i)]
    refine ⟨fun ⟨k, hk, hki⟩ => ?_, fun hi => ⟨i, hi, rfl⟩⟩
    exact h.posPow_injOn hK subset_rfl (hp.subset hk) (Finset.mem_range.mpr hi) hki ▸ hk
  rw [locatedAt, Bool.and_eq_true, beq_iff_eq, bne_iff_ne, hroot, and_iff_left_iff_imp]
  intro hmem hzero
  refine eval_inv_derivative_locator_ne_zero (h.posPow_ne_zero hK i) hinj hmem ?_
  rw [hl, derivative_C_mul, eval_mul, ← h.toPoly_pDeriv, ← h.map_locatorPoint hK hi,
    ← h.map_pEval hK, hzero, h.map_zero, mul_zero]

/-- A magnitude at a position of the pattern is the pattern's symbol. -/
theorem LocatesPattern.map_magnitude (hp : LocatesPattern K φ e s l r) (h : IsFieldMap K φ)
    (hK : ConstantsLegal K) (hi : i ∈ s) {y : Sym} (hy : IsMagnitude K l r (pDeriv l) i y) :
    φ y = e i := by
  obtain ⟨a, ha, hl, hr⟩ := hp.scaled
  have hlt : i < 63 := Finset.mem_range.mp (hp.subset hi)
  have hx := h.posPow_ne_zero hK i
  have hmul := congrArg φ (hy.of_located ((hp.locatedAt_iff h hK hlt).mpr hi))
  rw [h.map_gfMul, h.map_pEval hK, h.map_pEval hK, h.map_locatorPoint hK hlt,
    h.toPoly_pDeriv] at hmul
  have hforney := eval_inv_evaluator hx e hi
  have hsimple := eval_inv_derivative_locator_ne_zero hx (h.posPow_injOn hK hp.subset) hi
  rw [hl, derivative_C_mul, eval_mul, eval_C] at hforney hsimple
  rw [hr, eval_mul, eval_C, ← hmul] at hforney
  refine mul_right_cancel₀ hsimple ?_
  rw [← hforney]
  ring

theorem LocatesPattern.popcount_rsRoots (hp : LocatesPattern K φ e s l r) (h : IsFieldMap K φ)
    (hK : ConstantsLegal K) : popcount (rsRoots K l) = deg l := by
  have hset : erasedSet (rsRoots K l) = s := Finset.ext fun i => by
    rw [mem_erasedSet]
    constructor
    · rintro ⟨hi, hmark⟩
      rwa [maskAt_rsRoots K l hi, hp.locatedAt_iff h hK hi] at hmark
    · intro hmem
      have hi : i < 63 := Finset.mem_range.mp (hp.subset hmem)
      rw [maskAt_rsRoots K l hi, hp.locatedAt_iff h hK hi]
      exact ⟨hi, hmem⟩
  rw [popcount_eq_markedCount, ← card_erasedSet, hset, hp.deg_l h hK]

/-- `rs_forney` finds the pattern, and the count of roots is the locator's degree. -/
theorem LocatesPattern.exists_rsForney_eq_ok (hp : LocatesPattern K φ e s l r)
    (h : IsFieldMap K φ) (hK : ConstantsLegal K) :
    ∃ es, rsForney K l r = .ok (es, rsRoots K l, deg l) ∧
      ∀ i < 63, (i ∈ s → φ (coef es i) = e i) ∧ (i ∉ s → coef es i = 0#6) := by
  obtain ⟨es, hes, hmagnitude⟩ := exists_magnitudes_eq_ok hK l r (pDeriv l)
  refine ⟨es, ?_, fun i hi => ⟨fun hmem => hp.map_magnitude h hK hmem (hmagnitude i hi),
    fun hmem => (hmagnitude i hi).of_not_located ?_⟩⟩
  · rw [rsForney, pEval, if_pos rfl, if_neg (hp.coef_zero_ne_zero h),
      if_neg (Nat.not_le.mpr (hp.deg_r_lt h hK)), hes, hp.popcount_rsRoots h hK]
    rfl
  · exact Bool.eq_false_iff.mpr (mt (hp.locatedAt_iff h hK hi).mp hmem)

end Sys2Proof.Machine
end

section
/-!
PROOFS. What `RS.ENC` answers is a codeword (42_encoder.md R162): the generator vanishes at
`α^1, …, α^21`, and so do its multiples.
-/

namespace Sys2Proof.Machine

open Sys2Proof.Safety

variable {K : Constants}

/-! ### The generator in legal tables -/

/-- Arithmetic reads the tables `POW` and `LOG` alone. -/
theorem gfMul_and_alphaPow_congr {K K' : Constants} (hpow : K.pow = K'.pow)
    (hlog : K.log = K'.log) : gfMul K = gfMul K' ∧ alphaPow K = alphaPow K' := by
  obtain ⟨pow, log, gen⟩ := K
  obtain ⟨pow', log', gen'⟩ := K'
  obtain rfl : pow = pow' := hpow
  obtain rfl : log = log' := hlog
  exact ⟨rfl, rfl⟩

theorem convolve_congr {K K' : Constants} (h : gfMul K = gfMul K') (p q : List Sym) :
    convolve K p q = convolve K' p q := by
  induction p with
  | nil => rfl
  | cons a p ih => rw [convolve, convolve, h, ih]

theorem generatorProduct_congr {K K' : Constants} (hmul : gfMul K = gfMul K')
    (hpow : alphaPow K = alphaPow K') (n : Nat) :
    generatorProduct K n = generatorProduct K' n := by
  induction n with
  | zero => rfl
  | succ n ih =>
    rw [generatorProduct, generatorProduct, ih, hpow, pMul, pMul, convolve_congr hmul]

theorem length_generatorProduct_le (K : Constants) (n : Nat) :
    (generatorProduct K n).length ≤ n + 1 := by
  induction n with
  | zero => exact le_rfl
  | succ n ih =>
    have hlen := length_convolve_lt K (generatorProduct K n) [alphaPow K (n + 1), 1#6] nofun
    refine (length_norm_le _).trans (max_le ?_ (by omega))
    simp only [List.length_cons, List.length_nil] at hlen
    omega

/-- The tables `POW` and `LOG` with which `GEN` is built (10_state.md R26). -/
def powLogTables (p : Params) : Constants :=
  { pow := buildPow p.primPoly, log := buildLog (buildPow p.primPoly),
    gen := Vector.replicate 22 0#6 }

theorem genPoly_build (p : Params) :
    genPoly (Constants.build p) = (buildGen (powLogTables p) p.genScale).toList := rfl

theorem coef_buildGen (K : Constants) (c : Sym) {i : Nat} (hi : i < 22) :
    coef (buildGen K c).toList i = gfMul K (coef (generatorProduct K 21) i) c := by
  rw [coef_of_lt (by simpa using hi), Vector.getElem_toList, buildGen, Vector.getElem_ofFn,
    coef_pSmul]

/-- The generator in the table is the product of the 21 factors, scaled. -/
theorem exists_coef_genPoly (hK : ConstantsLegal K) :
    ∃ c, ∀ i, coef (genPoly K) i = coef (pSmul K (generatorProduct K 21) c) i := by
  obtain ⟨p, -, rfl⟩ := hK
  refine ⟨p.genScale, fun i => ?_⟩
  obtain ⟨hmul, hpow⟩ := gfMul_and_alphaPow_congr (K := Constants.build p)
    (K' := powLogTables p) rfl rfl
  rw [coef_pSmul]
  by_cases hi : i < 22
  · rw [genPoly_build, coef_buildGen _ _ hi, hmul, generatorProduct_congr hmul hpow]
  · rw [coef_of_length_le (by rw [length_genPoly]; omega),
      coef_of_length_le ((length_generatorProduct_le _ 21).trans (by omega)), gfMul_zero_left]

/-! ### Its roots -/

/-- The factor `x + a` vanishes at `a`. -/
theorem polyValue_factor (hK : ConstantsLegal K) (a : Sym) : polyValue K [a, 1#6] a = 0#6 := by
  simp only [polyValue_cons hK, polyValue_nil, gfMul_zero_left, BitVec.xor_zero,
    gfMul_comm K 1#6, gfMul_one hK, BitVec.xor_self]

theorem polyValue_generatorProduct (hK : ConstantsLegal K) {j n : Nat} (hj : j < n) :
    polyValue K (generatorProduct K n) (alphaPow K (j + 1)) = 0#6 := by
  induction n with
  | zero => cases hj
  | succ n ih =>
    rw [generatorProduct, polyValue_pMul hK]
    obtain hlt | rfl := Nat.lt_succ_iff_lt_or_eq.mp hj
    · rw [ih hlt, gfMul_zero_left]
    · rw [polyValue_factor hK, gfMul_zero_right]

theorem polyValue_genPoly (hK : ConstantsLegal K) {j : Nat} (hj : j < 21) :
    polyValue K (genPoly K) (alphaPow K (j + 1)) = 0#6 := by
  obtain ⟨c, hc⟩ := exists_coef_genPoly hK
  rw [polyValue_congr K hc, polyValue_pSmul hK, polyValue_generatorProduct hK hj, gfMul_zero_left]

/-! ### The codeword -/

/-- The product of a message and the generator fits the word. -/
theorem coef_toList_rsEnc (K : Constants) {message : List Sym} (hlen : message.length ≤ 42)
    (i : Nat) :
    coef (rsEnc K message).toList i = coef (pMul K (norm message) (genPoly K)) i := by
  by_cases hi : i < 63
  · exact coef_padWord _ hi
  · have hnorm := length_norm_le message
    have hproduct : (pMul K (norm message) (genPoly K)).length ≤ 63 :=
      length_norm_le_capacity (by
        have hlt := length_convolve_lt K (norm message) (genPoly K)
          (List.ne_nil_of_length_eq_add_one (length_genPoly K))
        rw [length_genPoly] at hlt
        show _ ≤ 63
        omega)
    rw [coef_of_length_le (by rw [Vector.length_toList]; omega), coef_of_length_le (by omega)]

theorem isCodeword_rsEnc (hK : ConstantsLegal K) {message : List Sym}
    (hlen : message.length ≤ 42) : IsCodeword K (rsEnc K message) := fun j hj => by
  rw [polyValue_congr K (coef_toList_rsEnc K hlen), polyValue_pMul hK, polyValue_genPoly hK hj,
    gfMul_zero_right]

end Sys2Proof.Machine
end

section
/-!
PROOFS. Correction within the bound (44_decoder_top.md R228): with at most 21 erasures and errors,
an error counted twice, the Euclidean solver's pair is short enough to be that of the error pattern,
and Forney's formula leads from the masked word to the codeword.
-/

namespace Sys2Proof.Machine

open Polynomial
open Sys2Proof.Safety

variable {K : Constants} {w c : Word63} {em : Mask63}

/-! ### The decoder on a masked word -/

/-- A word within the bound is the codeword itself if its syndromes are zero: a pattern on so few
positions has a nonzero syndrome unless it is zero. -/
theorem eq_of_syndromes_zero (hK : ConstantsLegal K) (hc : IsCodeword K c)
    (hbound : 2 * (errorSet w c em).card + markedCount em ≤ 21)
    (hzero : ∀ k < 21, syndrome K w (k + 1) = 0#6) : w = c := by
  obtain ⟨F, _, φ, h⟩ := exists_isFieldMap hK
  have := h.charP
  have hcard : (patternSet w c em).card ≤ 21 := by rw [card_patternSet]; omega
  refine word_eq_of_coef_eq fun i hi => ?_
  by_cases hmem : i ∈ patternSet w c em
  · have hsum : ∀ k < 21,
        ∑ i ∈ patternSet w c em, patternAt φ w c i * posPow K φ i ^ (k + 1) = 0 := fun k hk => by
      rw [← h.map_syndrome hK hc hk, hzero k hk, h.map_zero]
    have hpattern := eq_zero_of_syndromes_eq_zero (h.posPow_ne_zero hK)
      (h.posPow_injOn hK patternSet_subset_range) hcard hsum hmem
    exact BitVec.xor_eq_zero_iff.mp (h.map_eq_zero_iff.mp hpattern)
  · exact coef_eq_of_notMem_patternSet hi hmem

theorem patternSet_nonempty (hK : ConstantsLegal K) (hc : IsCodeword K c)
    (hne : ∃ k < 21, syndrome K w (k + 1) ≠ 0#6) : (patternSet w c em).Nonempty := by
  obtain ⟨k, hk, hne⟩ := hne
  by_contra hempty
  have hw : w = c := word_eq_of_coef_eq fun i hi =>
    coef_eq_of_notMem_patternSet (em := em) hi fun hmem => hempty ⟨i, hmem⟩
  exact hne (hw ▸ (isCodeword_iff hK c).mp hc k hk)

theorem locator_patternSet {F : Type} [Field F] (x : Nat → F) :
    locator x (patternSet w c em) = locator x (errorSet w c em) * locator x (erasedSet em) :=
  locator_union x disjoint_errorSet_erasedSet

/-- The errors' locator and the pattern's evaluator solve the key equation of the modified
syndromes, the erasures' factor of the locator being in these. -/
theorem IsFieldMap.keyEquation_errorSet {F : Type} [Field F] [CharP F 2] {φ : Sym → F}
    (h : IsFieldMap K φ) (hK : ConstantsLegal K) (hc : IsCodeword K c) :
    X ^ 21 ∣ locator (posPow K φ) (errorSet w c em) *
        toPoly φ (rsModsynd K (erasureProduct K em 63) (rsSynd K w)) +
      evaluator (posPow K φ) (patternAt φ w c) (patternSet w c em) := by
  refine dvd_keyEquation_of_modified ?_ (h.dvd_modsynd (erasureProduct K em 63) (rsSynd K w))
  rw [h.toPoly_erasureProduct, ← locator_patternSet, h.toPoly_rsSynd hK hc w em]
  exact keyEquation 21 _ _ _

/-- The solver's pair, its locator multiplied by the erasure locator, locates the pattern. -/
theorem exists_rsEuclid_locatesPattern {F : Type} [Field F] {φ : Sym → F} (h : IsFieldMap K φ)
    (hK : ConstantsLegal K) (hc : IsCodeword K c)
    (hbound : 2 * (errorSet w c em).card + markedCount em ≤ 21)
    (hne : ∃ k < 21, syndrome K w (k + 1) ≠ 0#6) :
    ∃ v r, rsEuclid K (rsModsynd K (erasureProduct K em 63) (rsSynd K w)) (markedCount em) =
        .ok (v, r) ∧
      LocatesPattern K φ (patternAt φ w c) (patternSet w c em)
        (pMul K v (erasureProduct K em 63)) r := by
  have := h.charP
  have hx := h.posPow_ne_zero hK
  obtain ⟨v, r, rPrev, vPrev, hok, hr, ⟨hrdeg, hvdeg⟩, hpairs⟩ :=
    h.exists_rsEuclid_eq_ok hK (e0 := markedCount em)
      (t := rsModsynd K (erasureProduct K em 63) (rsSynd K w)) (by omega) (canonical_norm _)
      (deg_rsModsynd_le K _ _)
  have hcard := card_patternSet (w := w) (c := c) (em := em)
  have hwdeg := natDegree_evaluator_le hx (patternAt φ w c) (patternSet w c em)
  have hldeg := natDegree_locator hx (errorSet w c em)
  have hvle := h.natDegree_toPoly_le v
  have hrle := h.natDegree_toPoly_le r
  obtain ⟨a, ha, hl, hw⟩ := hpairs.exists_eq_C_mul (h.keyEquation_errorSet hK hc)
    (locator_ne_zero hx _)
    (isCoprime_locator_evaluator hx (h.posPow_injOn hK patternSet_subset_range)
      Finset.subset_union_left fun i => h.patternAt_ne_zero) (by omega) (by omega)
  exact ⟨v, r, hok, {
    canonical_l := canonical_pMul _ _ _
    canonical_r := hr
    subset := patternSet_subset_range
    nonempty := patternSet_nonempty hK hc hne
    scaled := ⟨a, ha, by
      rw [locator_patternSet, hl, h.toPoly_pMul, h.toPoly_erasureProduct, mul_assoc], hw⟩ }⟩

/-- Adding the pattern to the word gives the codeword. -/
theorem correctedWord_eq {F : Type} [Field F] {φ : Sym → F} (h : IsFieldMap K φ) {es : List Sym}
    (hes : ∀ i < 63, (i ∈ patternSet w c em → φ (coef es i) = patternAt φ w c i) ∧
      (i ∉ patternSet w c em → coef es i = 0#6)) : correctedWord w es = c := by
  refine word_eq_of_coef_eq fun i hi => ?_
  have hcorrected : coef (correctedWord w es).toList i = coef w.toList i ^^^ coef es i := by
    rw [coef_of_lt (by simpa using hi), coef_of_lt (by simpa using hi)]
    simp [correctedWord, coef]
  obtain ⟨hin, hout⟩ := hes i hi
  rw [hcorrected]
  by_cases hmem : i ∈ patternSet w c em
  · rw [h.injective (hin hmem), ← BitVec.xor_assoc, BitVec.xor_self, BitVec.zero_xor]
  · rw [hout hmem, BitVec.xor_zero, coef_eq_of_notMem_patternSet hi hmem]

theorem correctErrors_eq_ok (hK : ConstantsLegal K) (hc : IsCodeword K c)
    (hbound : 2 * (errorSet w c em).card + markedCount em ≤ 21)
    (hne : ∃ k < 21, syndrome K w (k + 1) ≠ 0#6) :
    correctErrors K w em (rsSynd K w) = .ok c := by
  obtain ⟨F, _, φ, h⟩ := exists_isFieldMap hK
  have := h.charP
  obtain ⟨v, r, heuclid, hlocates⟩ := exists_rsEuclid_locatesPattern h hK hc hbound hne
  obtain ⟨es, hforney, hes⟩ := hlocates.exists_rsForney_eq_ok h hK
  rw [correctErrors, rsErasloc_of_le K (by omega)]
  simp only [bind, Except.bind, heuclid, hforney, ne_eq, not_true_eq_false, if_false]
  exact congrArg Except.ok (correctedWord_eq h hes)

theorem rsDec_eq_ok (hK : ConstantsLegal K) (hc : IsCodeword K c)
    (hbound : 2 * (errorSet w c em).card + markedCount em ≤ 21) : rsDec K w em = .ok c := by
  by_cases hzero : ∀ k < 21, syndrome K w (k + 1) = 0#6
  · rw [rsDec_of_syndromes_zero K em hzero, eq_of_syndromes_zero hK hc hbound hzero]
  · have hne : ∃ k < 21, syndrome K w (k + 1) ≠ 0#6 := by simpa using hzero
    rw [rsDec_of_syndrome_ne_zero K em hne, correctErrors_eq_ok hK hc hbound hne]

/-! ### The operation -/

theorem card_errorSet_maskedWord (s : State) (c : Word63) :
    (errorSet (maskedWord s) c s.ports.em).card = errorCount s c := by
  rw [errorCount, ← card_filter_range]
  refine congrArg Finset.card (Finset.filter_congr fun i hi => ?_)
  have hmasked := coef_maskedWord s (Finset.mem_range.mp hi)
  have hmark : maskAt s.ports.em i = emAt s i := rfl
  rw [hmasked, hmark, maskedAt]
  cases emAt s i <;> simp

/-- `RS.DEC` corrects every word within the bound (44_decoder_top.md R228). -/
theorem rsDec_answers_of_bound {s : State} (hs : s.ready = true) (hK : ConstantsLegal s.const)
    (hla : s.ports.la = 63#6) (hc : IsCodeword s.const c)
    (hbound : 2 * errorCount s c + markedCount s.ports.em ≤ 21) :
    Answers .rsDec s { status := .ok, fr := some true, vr := some c.toList } :=
  rsDec_answers hs hla (rsDec_eq_ok hK hc (by rwa [card_errorSet_maskedWord]))

/-- The codeword itself, with nothing erased, has no errors against itself. -/
theorem errorCount_self (s : State) : errorCount s s.ports.va = 0 := by
  simp [errorCount, vaAt]

theorem markedCount_none : markedCount (Vector.replicate 63 false) = 0 := by decide

/-- Settles O54: the round trip is the case of no errors and no erasures of the bound. -/
theorem correctionWithinTheBound : Obligations.CorrectionWithinTheBound := by
  refine ⟨fun s hs hK hla => ?_, fun s c hs hK hla hc => rsDec_answers_of_bound hs hK hla hc⟩
  have hc := isCodeword_rsEnc hK (List.length_take_le 42 s.ports.va.toList)
  refine ⟨_, rsEnc_answers hs hla, hc, rsDec_answers_of_bound hs hK rfl hc ?_⟩
  rw [errorCount_self, markedCount_none]
  decide

end Sys2Proof.Machine
end

section
/-!
PROOFS. What a failed operation leaves on the output ports (60_exceptions.md R251): a result that an
operation computes carries `OK`, so another status comes only from a raise, which defines the status
alone and, of `RS.DEC`, `FR = 0`.
-/

namespace Sys2Proof.Machine

/-! ### A computed result carries `OK` -/

/-- A computation that ends in a response, ends in one whose status is `OK`. -/
def ReturnsOk (x : Except Abort Response) : Prop := ∀ r, x = .ok r → r.status = .ok

theorem returnsOk_ok {r : Response} (hr : r.status = .ok) : ReturnsOk (.ok r) := fun _ h =>
  Except.ok.inj h ▸ hr

theorem returnsOk_error (e : Abort) : ReturnsOk (.error e) := nofun

/-- The status is that of the last step: the steps before it hand on no response. -/
theorem returnsOk_bind {α : Type} (x : Except Abort α) {f : α → Except Abort Response}
    (hf : ∀ a, ReturnsOk (f a)) : ReturnsOk (x >>= f) := by
  cases x with
  | ok a => exact hf a
  | error e => exact returnsOk_error e

/-- An operation that tests its operands first raises, or does what it does on good ones. -/
theorem returnsOk_ite_error {p : Prop} [Decidable p] (e : Abort) {x : Except Abort Response}
    (hx : ReturnsOk x) : ReturnsOk (if p then .error e else x) := by
  split
  · exact returnsOk_error e
  · exact hx

theorem returnsOk_polyResponse (p : Poly) : ReturnsOk (polyResponse p) :=
  returnsOk_bind _ fun _ => returnsOk_ok rfl

/-- Every operation but `RS.DEC` ends by `finish`, with a computation that returns `OK`. -/
theorem exec_eq_finish {i : Instr} (hi : i ≠ .rsDec) (s : State) :
    ∃ x, exec i s = finish s x ∧ ReturnsOk x := by
  cases i with
  | gfAdd a b | gfMul a b | pEval a | pIszero | rsRoots => exact ⟨_, rfl, returnsOk_ok rfl⟩
  | gfDiv a b | rsForney => exact ⟨_, rfl, returnsOk_bind _ fun _ => returnsOk_ok rfl⟩
  | pAdd | pSmul a | pDeriv | pTrunc m => exact ⟨_, rfl, returnsOk_polyResponse _⟩
  | pMul | rsModsynd => exact ⟨_, rfl, returnsOk_ite_error _ (returnsOk_polyResponse _)⟩
  | pDivmod =>
    exact ⟨_, rfl, returnsOk_bind _ fun _ => returnsOk_bind _ fun _ => returnsOk_bind _ fun _ =>
      returnsOk_ok rfl⟩
  | rsErasloc =>
    exact ⟨_, rfl, returnsOk_bind _ fun _ => returnsOk_bind _ fun _ => returnsOk_ok rfl⟩
  | rsSynd =>
    exact ⟨_, rfl, returnsOk_ite_error _ (returnsOk_bind _ fun _ => returnsOk_ok rfl)⟩
  | rsEuclid e0 =>
    exact ⟨_, rfl, returnsOk_ite_error _ <| returnsOk_bind _ fun _ => returnsOk_bind _ fun _ =>
      returnsOk_bind _ fun _ => returnsOk_ok rfl⟩
  | rsEnc => exact ⟨_, rfl, returnsOk_ite_error _ (returnsOk_ok rfl)⟩
  | rsDec => exact absurd rfl hi

/-! ### Another status comes from a raise -/

theorem finish_response_of_status_ne_ok {s t : State} {x : Except Abort Response} {r : Response}
    (hx : ReturnsOk x) (h : finish s x = .next t) (hr : t.resp = some r)
    (hne : r.status ≠ .ok) : r = Response.failed r.status := by
  obtain ⟨-, ⟨q, hq, rfl⟩ | ⟨c, -, rfl⟩⟩ := finishWith_next h
  · obtain rfl := Option.some.inj hr
    exact absurd (hx _ hq) hne
  · obtain rfl := Option.some.inj hr
    rfl

theorem execRsDec_response_of_status_ne_ok {s t : State} {r : Response}
    (h : execRsDec s = .next t) (hr : t.resp = some r) (hne : r.status ≠ .ok) :
    r = decodeFailed r.status := by
  obtain ⟨c, hresp⟩ | ⟨c, -, hresp⟩ := execRsDec_next h
  · obtain rfl := Option.some.inj (hr.symm.trans hresp)
    exact absurd rfl hne
  · obtain rfl := Option.some.inj (hr.symm.trans hresp)
    rfl

/-- Settles O14: a status other than `OK` was raised, and what a raise leaves is `Response.failed`
or, of `RS.DEC`, `decodeFailed`. -/
theorem failedResponsesDefineTheStatusAlone :
    Obligations.FailedResponsesDefineTheStatusAlone := by
  intro i s t r hexec hr hne
  by_cases hi : i = .rsDec
  · subst hi
    exact execRsDec_response_of_status_ne_ok hexec hr hne
  · obtain ⟨x, hx, hok⟩ := exec_eq_finish hi s
    rw [if_neg hi]
    exact finish_response_of_status_ne_ok hok (hx ▸ hexec) hr hne

end Sys2Proof.Machine
end

section
/-!
PROOFS. Decoding and encoding are inverse to each other (30_encoding.md R70 to R76, R80): an
operation is what the row of its code makes of its scalars, and the word of what a row makes is the
row's code with the scalars at their places.
-/

namespace Sys2Proof

open Sys2Proof.Safety

/-- What `Laws/PerInstr.lean` states of each operation, for all of them. -/
theorem encodedWord_statement (i : Instr) : Laws.EncodedWord.Statement i := by
  cases i with
  | gfAdd a b => exact Laws.EncodedWord.gfAdd a b
  | gfMul a b => exact Laws.EncodedWord.gfMul a b
  | gfDiv a b => exact Laws.EncodedWord.gfDiv a b
  | pAdd => exact Laws.EncodedWord.pAdd
  | pSmul c => exact Laws.EncodedWord.pSmul c
  | pMul => exact Laws.EncodedWord.pMul
  | pDivmod => exact Laws.EncodedWord.pDivmod
  | pEval x => exact Laws.EncodedWord.pEval x
  | pDeriv => exact Laws.EncodedWord.pDeriv
  | pTrunc m => exact Laws.EncodedWord.pTrunc m
  | pIszero => exact Laws.EncodedWord.pIszero
  | rsSynd => exact Laws.EncodedWord.rsSynd
  | rsErasloc => exact Laws.EncodedWord.rsErasloc
  | rsModsynd => exact Laws.EncodedWord.rsModsynd
  | rsEuclid e0 => exact Laws.EncodedWord.rsEuclid e0
  | rsRoots => exact Laws.EncodedWord.rsRoots
  | rsForney => exact Laws.EncodedWord.rsForney
  | rsEnc => exact Laws.EncodedWord.rsEnc
  | rsDec => exact Laws.EncodedWord.rsDec

/-- Every operation has a row: that of its code and its format, which makes it from its scalars. -/
theorem exists_row (i : Instr) :
    ∃ row ∈ opcodeMap, row.op = opcode i ∧ row.format = formatOf i ∧
      row.make (scalarA i) (scalarB i) = i := by
  cases i <;> simp [opcodeMap, opcode, formatOf, scalarA, scalarB]

/-- The word of what a row makes of two scalars, those its format does not read being 0. -/
theorem encode_make {row : OpRow} (hrow : row ∈ opcodeMap) {a b : Sym}
    (ha : row.format.readsA = false → a = 0#6) (hb : row.format.readsB = false → b = 0#6) :
    encode (row.make a b) = cmdWord row.op a b := by
  have hrows : ∀ row ∈ opcodeMap, (row.format.readsA = false → a = 0#6) →
      (row.format.readsB = false → b = 0#6) → encode (row.make a b) = cmdWord row.op a b := by
    simp +contextual [opcodeMap, encode, opcode, scalarA, scalarB, Format.readsA, Format.readsB]
  exact hrows row hrow ha hb

/-- Settles O1: an operation's word is that of its row and its scalars, which decodes to what the
row makes of them. -/
theorem decodeOfEncodeIsTheOperation : Obligations.DecodeOfEncodeIsTheOperation := by
  intro i
  obtain ⟨row, hrow, hop, hformat, hmake⟩ := exists_row i
  obtain ⟨-, -, ha, hb⟩ := encodedWord_statement i
  rw [← hformat] at ha hb
  rw [encode, ← hop, decode_cmdWord hrow ha hb, hmake]

/-- Settles O2: the scalars are the word's own and the fields no operation keeps are 0 in it, so the
word that encoding composes agrees with it field by field. -/
theorem encodeOfDecodeIsTheWord : Obligations.EncodeOfDecodeIsTheWord := by
  intro w i h
  obtain ⟨row, hrow, hop, ⟨hz1, hz0, ha, hb⟩, rfl⟩ := decode_eq_ok_iff.mp h
  rw [encode_make hrow ha hb, Cmd.eq_iff_fields_eq, cmdWord_op, cmdWord_z1, cmdWord_b, cmdWord_z0,
    cmdWord_a]
  exact ⟨hop, hz1.symm, rfl, hz0.symm, rfl⟩

/-- Settles O4: each word is decoded by running the decoder. -/
theorem decodedWordSamples : Obligations.DecodedWordSamples := by
  unfold Obligations.DecodedWordSamples
  decide

end Sys2Proof
end

section
/-!
PROOFS. Steps and reset (10_state.md R31, R40, R41; 60_exceptions.md R250, R253;
70_reset_and_hazards.md R270 to R273): what each act of the host does, and the frame every operation
has because it ends by delivering one response.
-/

namespace Sys2Proof.Machine

open Sys2Proof.Safety

variable {s t : State}

/-! ### An operation ends by delivering a response -/

theorem exec_eq_finishWith (i : Instr) (s : State) : ∃ f x, exec i s = finishWith f s x := by
  by_cases hi : i = .rsDec
  · subst hi
    exact ⟨decodeFailed, _, rfl⟩
  · obtain ⟨x, hexec, -⟩ := exec_eq_finish hi s
    exact ⟨Response.failed, x, hexec⟩

theorem exec_of_not_ready (hs : s.ready = false) (i : Instr) :
    exec i s = .refused .commandBeforeReady := by
  obtain ⟨f, x, hexec⟩ := exec_eq_finishWith i s
  rw [hexec, finishWith_not_ready hs]

/-- The frame of every operation: it runs only when `READY = 1` and changes the response alone. -/
theorem exec_next {i : Instr} (h : exec i s = .next t) :
    s.ready = true ∧ ∃ q, t = { s with resp := some q } := by
  obtain ⟨f, x, hexec⟩ := exec_eq_finishWith i s
  obtain ⟨hs, ⟨r, -, rfl⟩ | ⟨c, -, rfl⟩⟩ := finishWith_next (hexec ▸ h)
  · exact ⟨hs, r, rfl⟩
  · exact ⟨hs, f c, rfl⟩

/-! ### A transaction -/

theorem transact_of_decode_ok {r : Request} {i : Instr} (h : decode r.cmd = .ok i) (s : State) :
    transact s r = exec i (samplePorts s r) := by
  rw [transact, runCommand, h]

theorem transact_of_not_ready (hs : s.ready = false) (r : Request) :
    transact s r = .refused .commandBeforeReady := by
  cases hdecode : decode r.cmd with
  | ok i =>
    rw [transact_of_decode_ok hdecode]
    exact exec_of_not_ready (s := samplePorts s r) hs i
  | error e =>
    rw [transact, runCommand, hdecode]
    exact deliver_of_not_ready (s := samplePorts s r) hs _

theorem transact_next {r : Request} (h : transact s r = .next t) :
    s.ready = true ∧ ∃ q, t = { s with ports := r, resp := some q } := by
  cases hdecode : decode r.cmd with
  | ok i => exact exec_next (transact_of_decode_ok hdecode s ▸ h)
  | error e =>
    rw [transact, runCommand, hdecode] at h
    obtain ⟨hs, rfl⟩ := deliver_next h
    exact ⟨hs, _, rfl⟩

/-! ### A step takes the host's oldest act -/

theorem idleStep_of_ready (hs : s.ready = true) : idleStep s = s := if_pos hs

theorem idleStep_of_not_ready (hs : s.ready = false) : idleStep s = initialise s :=
  if_neg (Bool.eq_false_iff.mp hs)

@[simp] theorem idleStep_ready (s : State) : (idleStep s).ready = true := by
  cases hs : s.ready with
  | true => rw [idleStep_of_ready hs, hs]
  | false => rw [idleStep_of_not_ready hs, initialise_ready]

theorem abandon_of_ready (hs : s.ready = true) (r : Request) :
    abandon s r = .next (assertReset (samplePorts s r)) := if_pos hs

theorem abandon_next {r : Request} (h : abandon s r = .next t) :
    t = assertReset (samplePorts s r) := by
  unfold abandon at h
  split at h
  · exact (Host.Outcome.next.inj h).symm
  · cases h

theorem step_of_inputs_nil (h : s.inputs = []) : step s = .next (idleStep s) := by
  rw [step, advance, h]

theorem step_of_inputs_cons {x : HostInput} {rest : List HostInput} (h : s.inputs = x :: rest) :
    step s = respondTo { s with inputs := rest } x := by
  rw [step, advance, h]

theorem step_of_transaction {r : Request} {rest : List HostInput}
    (h : s.inputs = .transaction r :: rest) : step s = transact { s with inputs := rest } r :=
  step_of_inputs_cons h

/-- What a step can do: nothing but end initialisation, a transaction, or reset. -/
theorem step_next (h : step s = .next t) :
    (∃ rest, t = idleStep { s with inputs := rest }) ∨
    (∃ r rest, s.inputs = .transaction r :: rest ∧
      transact { s with inputs := rest } r = .next t) ∨
    ((∃ rest, s.inputs = .assertReset :: rest) ∨
      ∃ r rest, s.inputs = .resetDuringTransaction r :: rest) ∧
      t.ready = false ∧ t.resp = none := by
  cases hinputs : s.inputs with
  | nil =>
    rw [step_of_inputs_nil hinputs] at h
    exact .inl ⟨[], by rw [← hinputs]; exact (Host.Outcome.next.inj h).symm⟩
  | cons x rest =>
    rw [step_of_inputs_cons hinputs] at h
    cases x with
    | idle => exact .inl ⟨rest, (Host.Outcome.next.inj h).symm⟩
    | transaction r => exact .inr (.inl ⟨r, rest, rfl, h⟩)
    | assertReset =>
      obtain rfl := Host.Outcome.next.inj h
      exact .inr (.inr ⟨.inl ⟨rest, rfl⟩, rfl, rfl⟩)
    | resetDuringTransaction r =>
      obtain rfl := abandon_next h
      exact .inr (.inr ⟨.inr ⟨r, rest, rfl⟩, rfl, rfl⟩)

/-! ### The obligations -/

/-- Settles O5: the step takes the host's act, which is the transaction; a word placed for the host
is the transaction of that word with the ports as they are. -/
theorem stepRunsTheDecodedOperation : Obligations.StepRunsTheDecodedOperation := by
  refine ⟨fun s r rest i hinputs hdecode => ?_, fun s n w i hdecode => ?_⟩
  · rw [step_of_transaction hinputs, transact_of_decode_ok hdecode]
    rfl
  · rw [withFetchWord_eq, step_of_transaction (presentCommand_inputs s _),
      transact_of_decode_ok (r := { s.ports with cmd := BitVec.ofNat 32 w }) hdecode]
    rfl

/-- Settles O6: delivering a response asks for `READY`, which an idle step sets and reset alone
clears. -/
theorem readyFromInitialisationToReset : Obligations.ReadyFromInitialisationToReset := by
  refine fun s => ⟨exec_of_not_ready, fun hs r rest hinputs => ?_, fun rest hinputs => ?_,
    fun hs rest hinputs => ?_, fun hs hreset hduring t hstep => ?_⟩
  · rw [step_of_transaction hinputs]
    exact transact_of_not_ready (s := { s with inputs := rest }) hs r
  · exact ⟨_, step_of_inputs_cons hinputs, rfl⟩
  · obtain hnil | hidle := hinputs
    · exact ⟨_, step_of_inputs_nil hnil, idleStep_ready s, by rw [idleStep_of_not_ready hs]; rfl⟩
    · refine ⟨_, step_of_inputs_cons hidle, idleStep_ready _, ?_⟩
      rw [idleStep_of_not_ready (s := { s with inputs := rest }) hs, initialise_const]
  · obtain ⟨rest, rfl⟩ | ⟨r, rest, -, htransact⟩ | ⟨⟨rest, h⟩ | ⟨r, rest, h⟩, -⟩ :=
      step_next hstep
    · exact idleStep_ready _
    · obtain ⟨-, q, rfl⟩ := transact_next htransact
      exact hs
    · exact absurd h (hreset rest)
    · exact absurd h (hduring r rest)

/-- Settles O7: the printed tables are those the parameters give. -/
theorem resetLeavesTheTablesBuilt : Obligations.ResetLeavesTheTablesBuilt :=
  ⟨rfl, standard_eq_build, rfl, rfl, step_of_inputs_nil rfl⟩

/-- Settles O8: initialisation builds the tables of the state after reset. -/
theorem resetEventReestablishesTheMachine : Obligations.ResetEventReestablishesTheMachine := by
  intro s rest hinputs
  refine ⟨_, step_of_inputs_cons hinputs, rfl, rfl, (step_of_inputs_cons rfl).trans ?_⟩
  rw [respondTo, idleStep_of_not_ready rfl, initialise, ← standard_eq_build]
  rfl

/-- Settles O9: the act asserts reset on the sampled ports. -/
theorem resetAbandonsTheTransaction : Obligations.ResetAbandonsTheTransaction :=
  fun s r rest hs hinputs =>
    ⟨_, (step_of_inputs_cons hinputs).trans
      (abandon_of_ready (s := { s with inputs := rest }) hs r), rfl, rfl, rfl, rfl⟩

/-- Settles O10: the tables after reset are those of the default parameters, and no response is
held. -/
theorem resetMeetsTheInvariant : Obligations.ResetMeetsTheInvariant :=
  ⟨fun _ => reset_const_legal, nofun⟩

/-- Settles O13: an operation ends by delivering its response, and a transaction samples the ports
before that. -/
theorem operationsChangeOnlyThePorts : Obligations.OperationsChangeOnlyThePorts := by
  refine ⟨fun i s t h => ?_, fun s t r rest hinputs h => ?_⟩
  · obtain ⟨-, q, rfl⟩ := exec_next h
    exact ⟨rfl, rfl, rfl, rfl, q, rfl⟩
  · rw [step_of_transaction hinputs] at h
    obtain ⟨-, q, rfl⟩ := transact_next h
    exact ⟨rfl, rfl, rfl, rfl, q, rfl⟩

end Sys2Proof.Machine
end

section
/-!
PROOFS. The tables of legal parameters as a field (10_state.md R22 to R27; 40_field.md R103, R104):
which parameters are legal, the laws in the form of the spec, and the generator's leading
coefficient.
-/

namespace Sys2Proof.Machine

open Sys2Proof.Safety

/-! ### The legal parameters -/

/-- Running the construction for every mask of seven bits. -/
theorem construction_ok_iff (q : BitVec 7) :
    (q.getLsbD 6 = true ∧ alphaSteps q 63 1#7 = 1#7 ∧ (powValues q 63 1#7).Nodup) ↔
      q ∈ [0x43#7, 0x5B#7, 0x61#7, 0x67#7, 0x6D#7, 0x73#7] := by
  decide +kernel +revert

/-- Settles O21: the scalar is tested apart from the construction. -/
theorem legalParametersAreTheSixMasks : Obligations.LegalParametersAreTheSixMasks := by
  intro p
  rw [paramsLegal_iff, ← construction_ok_iff]
  tauto

variable {K : Constants}

/-! ### The field -/

/-- Settles O20: `LOG` is the inverse of `POW`, and multiplying by a power of alpha is linear. -/
theorem tablesAreThoseOfAField : Obligations.TablesAreThoseOfAField := fun _ hK =>
  ⟨fun _ => powAt_logOf hK, fun e => ⟨powAt_ne_zero hK e, logOf_powAt hK e⟩, powAt_zero hK,
    gfMul_xor_right hK⟩

/-- Settles O26: the laws of the field, the quotient being the one division answers. -/
theorem fieldLawsHold : Obligations.FieldLawsHold := fun _ hK =>
  ⟨fun a _ => exists_gfDiv_eq hK a, fun a => ⟨BitVec.xor_self, gfMul_one hK a⟩, gfMul_assoc hK⟩

/-- Every nonzero symbol is the point of a position: that of the exponent's negative. -/
theorem exists_locatorPoint_eq (hK : ConstantsLegal K) {x : Sym} (hx : x ≠ 0#6) :
    ∃ i < 63, locatorPoint K i = x := by
  obtain ⟨e, he⟩ := exists_powAt_eq hK hx
  refine ⟨(63 - e.val) % 63, Nat.mod_lt _ (by decide), ?_⟩
  have hexponent : (63 - (63 - e.val) % 63) % 63 = e.val := by omega
  rw [locatorPoint, hexponent, alphaPow_eq_of_lt K e.isLt]
  exact he

/-- Settles O27: exponents add modulo 63, so a position's point is the inverse of its power, and
negation permutes the exponents. -/
theorem powersOfAlphaMultiply : Obligations.PowersOfAlphaMultiply := fun _ hK =>
  ⟨gfMul_alphaPow hK, fun _ => gfMul_alphaPow_locatorPoint hK,
    fun _ hi _ hj => locatorPoint_inj hK hi hj, fun _ => exists_locatorPoint_eq hK⟩

/-! ### The generator -/

theorem canonical_generatorProduct (K : Constants) (n : Nat) :
    Poly.canonical (generatorProduct K n) = true := by
  cases n with
  | zero => rfl
  | succ n => exact canonical_pMul _ _ _

/-- Each factor `x + α^j` is monic, and so is their product, with a degree for each factor. -/
theorem generatorProduct_monic (hK : ConstantsLegal K) (n : Nat) :
    deg (generatorProduct K n) = n ∧ lead (generatorProduct K n) = 1#6 := by
  induction n with
  | zero => exact ⟨rfl, rfl⟩
  | succ n ih =>
    obtain ⟨hdeg, hlead⟩ := ih
    have hne : generatorProduct K n ≠ [0#6] := by
      intro h
      rw [h] at hlead
      exact absurd hlead (by decide)
    have hfactor : lead [alphaPow K (n + 1), 1#6] = 1#6 := rfl
    have hmul : deg (generatorProduct K (n + 1)) = deg (generatorProduct K n) + 1 :=
      deg_pMul hK (canonical_generatorProduct K n) rfl hne (by simp)
    refine ⟨by rw [hmul, hdeg], ?_⟩
    rw [lead, hmul, generatorProduct, coef_pMul]
    refine (productCoef_deg_add_deg K _ [alphaPow K (n + 1), 1#6]).trans ?_
    rw [hlead, hfactor, gfMul_one hK]

/-- The scalar is the generator's leading coefficient. -/
theorem coef_gen_build {p : Params} (hp : paramsLegal p = true) :
    coef (Constants.build p).gen.toList 21 = p.genScale := by
  have hK : ConstantsLegal (Constants.build p) := ⟨p, hp, rfl⟩
  obtain ⟨hmul, hpow⟩ := gfMul_and_alphaPow_congr (K := Constants.build p)
    (K' := powLogTables p) rfl rfl
  obtain ⟨hdeg, hlead⟩ := generatorProduct_monic hK 21
  rw [lead, hdeg] at hlead
  have hgen : coef (Constants.build p).gen.toList 21 =
      gfMul (powLogTables p) (coef (generatorProduct (powLogTables p) 21) 21) p.genScale :=
    coef_buildGen (powLogTables p) p.genScale (by decide)
  rw [hgen, ← hmul, ← generatorProduct_congr hmul hpow, hlead, gfMul_comm, gfMul_one hK]

/-- Settles O22: the product of monic factors, scaled, has the scalar in front and the factors'
roots. -/
theorem generatorVanishesAtTheFirstPowers : Obligations.GeneratorVanishesAtTheFirstPowers :=
  fun p hp => ⟨coef_gen_build hp, fun _ hj => polyValue_genPoly ⟨p, hp, rfl⟩ hj⟩

end Sys2Proof.Machine
end

section
/-!
PROOFS. Degrees and the uniqueness of division (41_poly.md R131, R132): over the field a remainder
too short to be a multiple of the divisor is determined by the dividend.
-/

namespace Sys2Proof.Machine

open Polynomial
open Sys2Proof.Safety

variable {K : Constants} {p q : Poly}

theorem pAdd_comm (p q : Poly) : pAdd p q = pAdd q p :=
  eq_of_canonical_of_coef_eq (canonical_norm _) (canonical_norm _) fun i => by
    rw [coef_pAdd, coef_pAdd, BitVec.xor_comm]

theorem deg_pAdd_le (p q : Poly) : deg (pAdd p q) ≤ max (deg p) (deg q) := by
  have hlen := length_norm_le (xorSeq p q)
  rw [length_xorSeq] at hlen
  unfold deg pAdd
  omega

theorem deg_pAdd_of_deg_lt (hq : Poly.canonical q = true) (h : deg p < deg q) :
    deg (pAdd p q) = max (deg p) (deg q) := by
  rw [deg_pAdd_of_lt hq (ne_zero_of_deg_pos (Nat.zero_lt_of_lt h)) (.inr h),
    max_eq_right h.le]

/-- Settles O39: the product of the leading coefficients stands at the sum of the degrees and is not
zero; a sum has the leading coefficient of the operand of greater degree. -/
theorem degreesOfProductsAndSums : Obligations.DegreesOfProductsAndSums := by
  refine fun K p q hK hp hq => ⟨fun hp0 hq0 => ?_, deg_pAdd_le p q, fun hne => ?_⟩
  · have hdeg := deg_pMul hK hp hq hp0 hq0
    exact ⟨hdeg, by rw [lead, hdeg, coef_pMul, productCoef_deg_add_deg]⟩
  · obtain hlt | hgt := Nat.lt_or_gt_of_ne hne
    · exact deg_pAdd_of_deg_lt hq hlt
    · rw [pAdd_comm, max_comm]
      exact deg_pAdd_of_deg_lt hp hgt

section
variable {F : Type} [Field F] {φ : Sym → F}

/-- A canonical polynomial is determined by its polynomial over the field. -/
theorem IsFieldMap.eq_of_toPoly_eq (h : IsFieldMap K φ) (hp : Poly.canonical p = true)
    (hq : Poly.canonical q = true) (heq : toPoly φ p = toPoly φ q) : p = q :=
  eq_of_canonical_of_coef_eq hp hq fun k => h.injective <| by
    rw [← h.coeff_toPoly, ← h.coeff_toPoly, heq]

theorem IsFieldMap.toPoly_ne_zero (h : IsFieldMap K φ) (hp : Poly.canonical p = true)
    (hp0 : p ≠ [0#6]) : toPoly φ p ≠ 0 := fun h0 =>
  hp0 (h.eq_of_toPoly_eq hp rfl (h0.trans h.toPoly_zero.symm))

/-- The condition on a remainder, over the field. -/
theorem IsFieldMap.degree_toPoly_lt (h : IsFieldMap K φ) {r b : Poly}
    (hr : Poly.canonical r = true) (hb : Poly.canonical b = true) (hb0 : b ≠ [0#6])
    (hlt : r = [0#6] ∨ deg r < deg b) : (toPoly φ r).degree < (toPoly φ b).degree := by
  obtain rfl | hlt := hlt
  · rw [h.toPoly_zero, degree_zero, bot_lt_iff_ne_bot, Ne, degree_eq_bot]
    exact h.toPoly_ne_zero hb hb0
  · exact degree_lt_degree (by rwa [h.natDegree_toPoly hr, h.natDegree_toPoly hb])

end

/-- Settles O34: the difference of two remainders is a multiple of the divisor and of lower degree,
hence zero, and so is the difference of the quotients. -/
theorem quotientAndRemainderAreUnique : Obligations.QuotientAndRemainderAreUnique := by
  intro K b q r q' r' hK hb hq hr hq' hr' hb0 hlaw hlt hlt'
  obtain ⟨F, _, φ, h⟩ := exists_isFieldMap hK
  have hsum : toPoly φ q * toPoly φ b + toPoly φ r =
      toPoly φ q' * toPoly φ b + toPoly φ r' := Polynomial.ext fun k => by
    simp only [coeff_add, h.coeff_toPoly_mul, h.coeff_toPoly, ← h.map_xor, hlaw]
  have hdiff : toPoly φ r - toPoly φ r' = (toPoly φ q' - toPoly φ q) * toPoly φ b := by
    linear_combination hsum
  have hrem : toPoly φ r - toPoly φ r' = 0 :=
    eq_zero_of_dvd_of_degree_lt (hdiff ▸ dvd_mul_left _ _)
      ((degree_sub_le _ _).trans_lt
        (max_lt (h.degree_toPoly_lt hr hb hb0 hlt) (h.degree_toPoly_lt hr' hb hb0 hlt')))
  have hquo : toPoly φ q' - toPoly φ q = 0 :=
    (mul_eq_zero.mp (hdiff.symm.trans hrem)).resolve_right (h.toPoly_ne_zero hb hb0)
  exact ⟨(h.eq_of_toPoly_eq hq' hq (sub_eq_zero.mp hquo)).symm,
    h.eq_of_toPoly_eq hr hr' (sub_eq_zero.mp hrem)⟩

end Sys2Proof.Machine
end

section
/-!
PROOFS. The encoder's words (42_encoder.md R162, R164): they are codewords, and since division is
unique, dividing one by the generator gives the message back.
-/

namespace Sys2Proof.Machine

open Sys2Proof.Safety

variable {K : Constants}

/-- An operation answers one response. -/
theorem answers_unique {i : Instr} {s : State} {r q : Response} (hr : Answers i s r)
    (hq : Answers i s q) : r = q :=
  Option.some.inj (congrArg State.resp (Host.Outcome.next.inj (hr.symm.trans hq)))

/-- Settles O41: the codeword is a multiple of the generator, which vanishes at the points of the
syndromes. -/
theorem encodedWordsAreCodewords : Obligations.EncodedWordsAreCodewords :=
  fun _ hs hK hla => ⟨_, rsEnc_answers hs hla, isCodeword_rsEnc hK (List.length_take_le 42 _)⟩

/-! ### Sequences on the two ports -/

theorem polyA_putA_eq_norm (s : State) {p : List Sym} (hl : p.length ≤ 63) :
    polyA (putA s p) = norm p := by
  have hva : (putA s p).ports.va = padWord p := rfl
  rw [polyA, inPoly, putA_la_toNat s hl, hva, take_padWord hl]

theorem polyB_putB_eq_norm (s : State) {p : List Sym} (hl : p.length ≤ 63) :
    polyB (putB s p) = norm p := by
  have hlb : (putB s p).ports.lb.toNat = p.length := Nat.mod_eq_of_lt (Nat.lt_succ_of_le hl)
  have hvb : (putB s p).ports.vb = padWord p := rfl
  rw [polyB, inPoly, hlb, hvb, take_padWord hl]

theorem polyB_putB (s : State) {p : Poly} (hp : Poly.canonical p = true) (hl : p.length ≤ 63) :
    polyB (putB s p) = p := by
  rw [polyB_putB_eq_norm s hl, norm_of_canonical hp]

@[simp] theorem polyA_putB (s : State) (p : List Sym) : polyA (putB s p) = polyA s := rfl

/-! ### Recovering the message -/

/-- The generator is not zero: its leading coefficient is the scalar of legal parameters. -/
theorem norm_genPoly_ne_zero (hK : ConstantsLegal K) : norm (genPoly K) ≠ [0#6] := by
  obtain ⟨p, hp, rfl⟩ := hK
  obtain ⟨-, -, -, hscale⟩ := (paramsLegal_iff p).mp hp
  exact fun h => hscale ((coef_gen_build hp).symm.trans ((norm_eq_zero_iff _).mp h 21))

/-- A multiple of the divisor is divided without remainder: quotient and remainder are unique. -/
theorem pDivmod_answers_of_multiple {s : State} (hs : s.ready = true)
    (hK : ConstantsLegal s.const) {m : Poly} (hm : Poly.canonical m = true)
    (hB : polyB s ≠ [0#6]) (h : ∀ k, coef (polyA s) k = productCoef s.const m (polyB s) k) :
    Answers .pDivmod s { status := .ok, vq := some m, vr := some [0#6] } := by
  obtain ⟨q, r, hans, hq, hr, hlaw, hlt, -⟩ := (pDivmodDivides.2 s hs).2 hK hB
  obtain ⟨rfl, rfl⟩ := quotientAndRemainderAreUnique s.const (polyB s) q r m [0#6] hK
    (canonical_polyB s) hq hr hm rfl hB
    (fun k => by rw [← hlaw, h, coef_zero_poly, BitVec.xor_zero]) hlt (.inl rfl)
  exact hans

/-- A multiple of the generator on the first port, the generator on the second. -/
theorem pDivmod_answers_of_multiple_of_gen {s : State} (hs : s.ready = true)
    (hK : ConstantsLegal s.const) {c : List Sym} {m : Poly} (hlen : c.length ≤ 63)
    (hm : Poly.canonical m = true)
    (h : ∀ k, coef c k = productCoef s.const m (genPoly s.const) k) :
    Answers .pDivmod (putB (putA s c) s.const.gen.toList)
      { status := .ok, vq := some m, vr := some [0#6] } := by
  have hA := polyA_putA_eq_norm s hlen
  have hB := polyB_putB_eq_norm (putA s c) (p := s.const.gen.toList)
    ((length_genPoly s.const).trans_le (by decide))
  refine pDivmod_answers_of_multiple (s := putB (putA s c) s.const.gen.toList) hs hK hm ?_
    fun k => ?_
  · rw [hB]
    exact norm_genPoly_ne_zero hK
  · rw [polyA_putB, hA, hB, coef_norm, h]
    simp only [productCoef, coef_norm]
    rfl

/-- Settles O42: the codeword is the message times the generator. -/
theorem divisionByTheGeneratorRecoversTheMessage :
    Obligations.DivisionByTheGeneratorRecoversTheMessage := by
  intro s c hs hK hla hc
  have hword : c = (rsEnc s.const (s.ports.va.toList.take 42)).toList :=
    Option.some.inj (congrArg Response.vr (answers_unique hc (rsEnc_answers hs hla)))
  refine pDivmod_answers_of_multiple_of_gen hs hK ?_ (canonical_norm _) fun k => ?_
  · rw [hword, Vector.length_toList]
  · rw [hword, coef_toList_rsEnc _ (List.length_take_le 42 _), coef_pMul]

end Sys2Proof.Machine
end

section
/-!
PROOFS. What the erasure locator and the Euclidean solver answer (43_decoder_stages.md R177 to
R181): the locator is the product of the marked positions' factors, and the solver's pair solves the
key equation within the bounds of its stop test.
-/

namespace Sys2Proof.Machine

open Polynomial
open Sys2Proof.Safety

variable {K : Constants}

/-! ### The erasure locator -/

theorem canonical_erasureProduct (K : Constants) (em : Mask63) (n : Nat) :
    Poly.canonical (erasureProduct K em n) = true := by
  induction n with
  | zero => rfl
  | succ n ih =>
    rw [erasureProduct_succ]
    split
    · exact canonical_pMul _ _ _
    · exact ih

theorem deg_erasureProduct (hK : ConstantsLegal K) (em : Mask63) :
    deg (erasureProduct K em 63) = markedCount em := by
  obtain ⟨F, _, φ, h⟩ := exists_isFieldMap hK
  rw [← h.natDegree_toPoly (canonical_erasureProduct K em 63), h.toPoly_erasureProduct,
    natDegree_locator (h.posPow_ne_zero hK), card_erasedSet]

theorem coef_erasureProduct_zero (hK : ConstantsLegal K) (em : Mask63) :
    coef (erasureProduct K em 63) 0 = 1#6 := by
  obtain ⟨F, _, φ, h⟩ := exists_isFieldMap hK
  refine h.injective ?_
  rw [← h.coeff_toPoly, h.toPoly_erasureProduct, coeff_zero_eq_eval_zero, eval_zero_locator,
    h.map_one]

/-- The roots of the erasure locator are the points of the erased positions. -/
theorem polyValue_erasureProduct_eq_zero_iff (hK : ConstantsLegal K) (em : Mask63) {i : Nat}
    (hi : i < 63) :
    polyValue K (erasureProduct K em 63) (locatorPoint K i) = 0#6 ↔ maskAt em i = true := by
  obtain ⟨F, _, φ, h⟩ := exists_isFieldMap hK
  have := h.charP
  rw [← h.map_eq_zero_iff, ← h.eval_toPoly, h.toPoly_erasureProduct, h.map_locatorPoint hK hi,
    eval_inv_locator_eq_zero_iff (h.posPow_ne_zero hK i)]
  refine ⟨fun ⟨k, hk, hki⟩ => ?_, fun hmark => ⟨i, mem_erasedSet.mpr ⟨hi, hmark⟩, rfl⟩⟩
  obtain ⟨hk63, hmark⟩ := mem_erasedSet.mp hk
  rwa [← h.posPow_injOn hK subset_rfl (Finset.mem_range.mpr hk63) (Finset.mem_range.mpr hi) hki]

theorem length_erasureProduct_le (hK : ConstantsLegal K) {em : Mask63}
    (h : markedCount em ≤ 21) : (erasureProduct K em 63).length ≤ capacity := by
  have hlen := deg_add_one_of_canonical (canonical_erasureProduct K em 63)
  rw [deg_erasureProduct hK] at hlen
  unfold capacity
  omega

theorem rsErasloc_answers {s : State} (hs : s.ready = true)
    (hcount : markedCount s.ports.em ≤ 21)
    (hlen : (erasureProduct s.const s.ports.em 63).length ≤ capacity) :
    Answers .rsErasloc s
      { status := .ok, vr := some (erasureProduct s.const s.ports.em 63),
        cr := some (BitVec.ofNat 6 (markedCount s.ports.em)) } := by
  rw [Answers, exec, execRsErasloc, rsErasloc_of_le _ hcount]
  simp only [bind, Except.bind, outPoly_ok hlen]
  exact finish_ok hs _

theorem rsErasloc_answers_raise {s : State} (hs : s.ready = true)
    (hcount : 21 < markedCount s.ports.em) :
    Answers .rsErasloc s { status := .erasureCapacityExceeded } := by
  rw [Answers, exec, execRsErasloc, rsErasloc_of_lt _ hcount]
  exact finish_raise hs .erasureCapacityExceeded

/-- Settles O44: the count is tested first; the product is the locator of the erased positions, of
which each contributes one factor. -/
theorem rsEraslocLocatesTheErasures : Obligations.RsEraslocLocatesTheErasures := by
  refine ⟨by decide, fun s hs => ⟨rsErasloc_answers_raise hs, fun hK hcount => ?_⟩⟩
  exact ⟨_, rsErasloc_answers hs hcount (length_erasureProduct_le hK hcount),
    canonical_erasureProduct _ _ _, deg_erasureProduct hK _, coef_erasureProduct_zero hK _,
    fun i hi => polyValue_erasureProduct_eq_zero_iff hK _ hi⟩

/-! ### Canonical results, with any tables -/

/-- A computation that goes on answers what its continuation does on what it handed on. -/
theorem bind_eq_ok {α β : Type} {x : Except Abort α} {f : α → Except Abort β} {b : β}
    (h : x >>= f = .ok b) : ∃ a, x = .ok a ∧ f a = .ok b := by
  cases x with
  | ok a => exact ⟨a, rfl, h⟩
  | error e => cases h

theorem canonical_of_pDivmod_eq_ok {p q quo rem : Poly} (hp : Poly.canonical p = true)
    (h : pDivmod K p q = .ok (quo, rem)) :
    Poly.canonical quo = true ∧ Poly.canonical rem = true := by
  unfold pDivmod at h
  split_ifs at h
  · cases h
    exact ⟨rfl, hp⟩
  · obtain ⟨⟨quo', rem'⟩, -, h⟩ := bind_eq_ok h
    cases h
    exact ⟨canonical_norm _, canonical_norm _⟩

theorem canonical_of_euclidLoop_eq_ok {e0 n : Nat} {rPrev rCur vPrev vCur v r : Poly}
    (hrPrev : Poly.canonical rPrev = true) (hrCur : Poly.canonical rCur = true)
    (hvCur : Poly.canonical vCur = true)
    (h : euclidLoop K e0 n rPrev rCur vPrev vCur = .ok (v, r)) :
    Poly.canonical v = true ∧ Poly.canonical r = true := by
  induction n generalizing rPrev rCur vPrev vCur with
  | zero =>
    unfold euclidLoop at h
    split_ifs at h
    cases h
    exact ⟨hvCur, hrCur⟩
  | succ n ih =>
    unfold euclidLoop at h
    split_ifs at h
    · cases h
      exact ⟨hvCur, hrCur⟩
    · obtain ⟨⟨quo, rem⟩, hdiv, hloop⟩ := bind_eq_ok h
      exact ih hrCur (canonical_of_pDivmod_eq_ok hrPrev hdiv).2 (canonical_norm _) hloop

theorem canonical_of_rsEuclid_eq_ok {t v r : Poly} {e0 : Nat} (ht : Poly.canonical t = true)
    (h : rsEuclid K t e0 = .ok (v, r)) : Poly.canonical v = true ∧ Poly.canonical r = true :=
  canonical_of_euclidLoop_eq_ok canonical_x21 ht rfl h

/-! ### The key equation -/

/-- What the solver answers (43_decoder_stages.md R181): a locator and an evaluator within the
bounds that solve the key equation modulo `x^21`. -/
structure SolvesKeyEquation (K : Constants) (t : Poly) (e0 : Nat) (v r : Poly) : Prop where
  canonical_v : Poly.canonical v = true
  canonical_r : Poly.canonical r = true
  v_ne_zero : v ≠ [0#6]
  stops : EuclidStops e0 r v
  law : ∀ k ≤ 20, productCoef K v t k = coef r k

/-- A pair of the solver with a remainder below the modulus has a locator that is not zero: else the
remainder were zero as well, and the determinant with it. -/
theorem KeyPairs.vCur_ne_zero {F : Type} [Field F] {m : Nat} {t rPrev rCur vPrev vCur : F[X]}
    (h : KeyPairs m t rPrev rCur vPrev vCur) (hdeg : rCur.natDegree < m) : vCur ≠ 0 := by
  rintro rfl
  have hcur := h.cur
  rw [zero_mul, zero_add] at hcur
  have hr : rCur = 0 := eq_zero_of_dvd_of_natDegree_lt hcur (by rwa [natDegree_X_pow])
  have hdet := h.det
  rw [hr, zero_mul, mul_zero, add_zero] at hdet
  exact pow_ne_zero m X_ne_zero hdet.symm

theorem exists_solvesKeyEquation (hK : ConstantsLegal K) {e0 : Nat} (he0 : e0 ≤ 21) {t : Poly}
    (ht : Poly.canonical t = true) (hdeg : deg t ≤ 20) :
    ∃ v r, rsEuclid K t e0 = .ok (v, r) ∧ SolvesKeyEquation K t e0 v r := by
  obtain ⟨F, _, φ, h⟩ := exists_isFieldMap hK
  have := h.charP
  obtain ⟨v, r, rPrev, vPrev, hok, hr, hstops, hpairs⟩ := h.exists_rsEuclid_eq_ok hK he0 ht hdeg
  obtain ⟨hrdeg, -⟩ := id hstops
  refine ⟨v, r, hok, (canonical_of_rsEuclid_eq_ok ht hok).1, hr, ?_, hstops, fun k hk => ?_⟩
  · rintro rfl
    exact hpairs.vCur_ne_zero ((h.natDegree_toPoly_le r).trans_lt (by omega)) h.toPoly_zero
  · have hcoeff := X_pow_dvd_iff.mp hpairs.cur k (Nat.lt_succ_of_le hk)
    rw [coeff_add, h.coeff_toPoly_mul, h.coeff_toPoly, CharTwo.add_eq_zero] at hcoeff
    exact h.injective hcoeff

/-- Settles O46: the pair the loop stops at solves the key equation; a seed within the bounds stops
it at once. -/
theorem rsEuclidSolvesTheKeyEquation : Obligations.RsEuclidSolvesTheKeyEquation := by
  refine ⟨fun a => decode_cmdWord (row := ⟨0x33#8, .ps, fun a _ => .rsEuclid a⟩)
    (by simp [opcodeMap]) nofun fun _ => rfl, fun s e0 hs => ⟨rsEuclid_answers_raise hs,
    fun hK he0 hdeg => ?_⟩⟩
  obtain ⟨v, r, hok, h⟩ := exists_solvesKeyEquation hK he0 (canonical_polyA s) hdeg
  obtain ⟨hrdeg, hvdeg⟩ := h.stops
  refine ⟨v, r, rsEuclid_answers hs he0 hdeg hok h.stops, h.canonical_v, h.canonical_r,
    h.v_ne_zero, hvdeg, hrdeg, h.law, fun hseed => ?_⟩
  have hstops : EuclidStops e0.toNat (polyA s) [1#6] := ⟨hseed, Nat.zero_le _⟩
  rw [rsEuclid, euclidLoop_of_stops _ _ _ _ hstops] at hok
  cases hok
  exact ⟨rfl, rfl⟩

end Sys2Proof.Machine
end

section
/-!
PROOFS. Every operation completes (60_exceptions.md R240, R251, R256; 93_implementation_defined.md
Part 1): with legal tables nothing inside an operation can stop the machine, the response has the
form of a response, and its code is one the operation can return.
-/

namespace Sys2Proof.Machine

open Sys2Proof.Safety

variable {K : Constants} {s : State} {i : Instr}

/-! ### The decoder ends with a word or with one of two failures -/

theorem rsForney_result (hK : ConstantsLegal K) (l w : Poly) :
    (∃ e, rsForney K l w = .ok (e, rsRoots K l, popcount (rsRoots K l))) ∨
      rsForney K l w = .error (.raise .decodeFailure) := by
  unfold rsForney
  split_ifs
  · exact .inr rfl
  · exact .inr rfl
  · obtain ⟨e, he, -⟩ := magnitudes_eq_ok hK l w (pDeriv l) (List.range codeLength)
    rw [he]
    exact .inl ⟨e, rfl⟩

section
variable {em : Mask63} {synd v r : Poly}

/-- Steps 2 to 6 of the decoder when the erasures are not too many and the solver stops. -/
theorem correctErrors_of_forney_ok (w : Word63) (hcount : markedCount em ≤ 21)
    (heuclid : rsEuclid K (rsModsynd K (erasureProduct K em 63) synd) (markedCount em) =
      .ok (v, r)) {e : List Sym} {m : Mask63} {n : Nat}
    (hforney : rsForney K (pMul K v (erasureProduct K em 63)) r = .ok (e, m, n)) :
    correctErrors K w em synd =
      if n ≠ deg (pMul K v (erasureProduct K em 63)) then .error (.raise .decodeFailure)
      else .ok (correctedWord w e) := by
  rw [correctErrors, rsErasloc_of_le K hcount]
  simp only [bind, Except.bind, heuclid, hforney]
  rfl

theorem correctErrors_of_forney_error (w : Word63) (hcount : markedCount em ≤ 21)
    (heuclid : rsEuclid K (rsModsynd K (erasureProduct K em 63) synd) (markedCount em) =
      .ok (v, r)) {a : Abort}
    (hforney : rsForney K (pMul K v (erasureProduct K em 63)) r = .error a) :
    correctErrors K w em synd = .error a := by
  rw [correctErrors, rsErasloc_of_le K hcount]
  simp only [bind, Except.bind, heuclid, hforney]

end

theorem rsDec_result (hK : ConstantsLegal K) (w : Word63) (em : Mask63) :
    (∃ c, rsDec K w em = .ok c) ∨
      ∃ c, (c = .decodeFailure ∨ c = .erasureCapacityExceeded) ∧
        rsDec K w em = .error (.raise c) := by
  by_cases hzero : isZero (rsSynd K w) = true
  · exact .inl ⟨w, if_pos hzero⟩
  rw [rsDec, if_neg hzero]
  obtain hcount | hcount := Nat.lt_or_ge 21 (markedCount em)
  · refine .inr ⟨_, .inr rfl, ?_⟩
    rw [correctErrors, rsErasloc_of_lt K hcount]
    rfl
  obtain ⟨v, r, heuclid, -⟩ := exists_solvesKeyEquation hK hcount
    (t := rsModsynd K (erasureProduct K em 63) (rsSynd K w)) (canonical_norm _)
    (deg_rsModsynd_le K _ _)
  obtain ⟨e, hforney⟩ | hforney := rsForney_result hK (pMul K v (erasureProduct K em 63)) r
  · rw [correctErrors_of_forney_ok w hcount heuclid hforney]
    split_ifs
    · exact .inr ⟨_, .inl rfl, rfl⟩
    · exact .inl ⟨_, rfl⟩
  · exact .inr ⟨_, .inl rfl, correctErrors_of_forney_error w hcount heuclid hforney⟩

/-! ### The form of a response -/

/-- The operation answers, with a response of the form every response has and a code that it can
return. -/
def Completes (i : Instr) (s : State) : Prop :=
  ∃ r, Answers i s r ∧ responseOk r = true ∧ statusPort r ∈ allowedCodes i

theorem ok_mem_allowedCodes (i : Instr) : statusCode .ok ∈ allowedCodes i := by
  cases i <;> exact List.mem_cons_self

theorem completes_of_ok {r : Response} (h : Answers i s r) (hr : r.status = .ok)
    (hvr : r.vr.all portLengthOk = true) (hvq : r.vq.all portLengthOk = true) :
    Completes i s := by
  refine ⟨r, h, by simp [responseOk, hr, hvr, hvq], ?_⟩
  rw [statusPort, hr]
  exact ok_mem_allowedCodes i

theorem completes_of_raise {c : Status} (h : Answers i s { status := c })
    (hc : allowedCodes i = [statusCode .ok, statusCode c]) : Completes i s :=
  ⟨_, h, by simp [responseOk], by simp [hc, statusPort]⟩

theorem portLengthOk_of_canonical {p : Poly} (hp : Poly.canonical p = true)
    (hlen : p.length ≤ capacity) : portLengthOk p = true := by
  simp only [portLengthOk, Bool.and_eq_true, decide_eq_true_eq]
  exact ⟨length_pos_of_canonical hp, hlen⟩

theorem portLengthOk_of_length_eq {p : List Sym} (hlen : p.length = 63) :
    portLengthOk p = true := by
  simp [portLengthOk, hlen]

/-- The case of one polynomial result. -/
theorem completes_of_poly {p : Poly} (h : Answers i s { status := .ok, vr := some p })
    (hp : Poly.canonical p = true) (hlen : p.length ≤ capacity) : Completes i s :=
  completes_of_ok h rfl (portLengthOk_of_canonical hp hlen) rfl

theorem completes_of_polyResponse {v : List Sym} (hs : s.ready = true)
    (hexec : exec i s = finish s (polyResponse (norm v))) (hlen : (norm v).length ≤ capacity) :
    Completes i s :=
  completes_of_poly (answers_polyResponse hs hexec hlen) (canonical_norm v) hlen

/-! ### The operations that can raise a status -/

theorem completes_gfDiv (hs : s.ready = true) (a b : Sym) : Completes (.gfDiv a b) s := by
  by_cases hb : b = 0#6
  · subst hb
    exact completes_of_raise (c := .divisionByZero) (finish_raise hs _) rfl
  · obtain ⟨q, hq⟩ := gfDiv_of_ne_zero s.const hb a
    exact completes_of_ok (gfDiv_answers hs hq) rfl rfl rfl

theorem completes_pMul (hs : s.ready = true) : Completes .pMul s := by
  obtain ⟨hover, hfits⟩ := pMulConvolves.2 s hs
  by_cases hdeg : deg (polyA s) + deg (polyB s) ≤ 62
  · obtain ⟨p, h, hp, hcoef, -⟩ := hfits hdeg
    refine completes_of_poly h hp (length_le_of_canonical hp (by decide) fun k hk => ?_)
    have hk : 63 ≤ k := hk
    rw [hcoef, productCoef_eq_zero_of_deg_lt _ (by omega)]
  · exact completes_of_raise (hover (by omega)) rfl

theorem completes_pDivmod (hs : s.ready = true) (hK : ConstantsLegal s.const) :
    Completes .pDivmod s := by
  by_cases hB : polyB s = [0#6]
  · exact completes_of_raise (pDivmod_answers_raise hs hB) rfl
  · obtain ⟨q, r, hdiv, h⟩ := exists_pDivmod_eq_ok hK (canonical_polyA s) (canonical_polyB s) hB
    have hq := h.length_quo_le.trans (length_polyA_le s)
    have hr := (h.length_rem_le (canonical_polyB s)).trans (length_polyB_le s)
    exact completes_of_ok (pDivmod_answers hs hdiv hq hr) rfl
      (portLengthOk_of_canonical h.canonical_rem hr) (portLengthOk_of_canonical h.canonical_quo hq)

theorem completes_rsSynd (hs : s.ready = true) : Completes .rsSynd s := by
  by_cases hla : s.ports.la = 63#6
  · exact completes_of_ok (rsSynd_answers hs hla) rfl
      (portLengthOk_of_canonical (canonical_rsSynd _ _) (length_rsSynd_le _ _)) rfl
  · exact completes_of_raise (rsSynd_answers_raise hs hla) rfl

theorem completes_rsErasloc (hs : s.ready = true) (hK : ConstantsLegal s.const) :
    Completes .rsErasloc s := by
  obtain hcount | hcount := Nat.lt_or_ge 21 (markedCount s.ports.em)
  · exact completes_of_raise (rsErasloc_answers_raise hs hcount) rfl
  · have hlen := length_erasureProduct_le hK hcount
    exact completes_of_ok (rsErasloc_answers hs hcount hlen) rfl
      (portLengthOk_of_canonical (canonical_erasureProduct _ _ _) hlen) rfl

theorem completes_rsModsynd (hs : s.ready = true) : Completes .rsModsynd s := by
  by_cases hdeg : deg (polyA s) + deg (polyB s) ≤ 62
  · exact completes_of_poly (rsModsynd_answers hs hdeg) (canonical_norm _)
      (length_pTrunc_le (length_pMul_le _ (canonical_polyA s) (canonical_polyB s) hdeg) _)
  · exact completes_of_raise (rsModsynd_answers_raise hs (by omega)) rfl

theorem completes_rsEuclid (hs : s.ready = true) (hK : ConstantsLegal s.const) (e0 : BitVec 6) :
    Completes (.rsEuclid e0) s := by
  by_cases hrange : e0.toNat > 21 ∨ deg (polyA s) > 20
  · exact completes_of_raise (rsEuclid_answers_raise hs hrange) rfl
  · have he0 : e0.toNat ≤ 21 := by omega
    have hdeg : deg (polyA s) ≤ 20 := by omega
    obtain ⟨v, r, hok, h⟩ := exists_solvesKeyEquation hK he0 (canonical_polyA s) hdeg
    obtain ⟨hv, hr⟩ := length_le_of_euclidStops he0 h.stops
    exact completes_of_ok (rsEuclid_answers hs he0 hdeg hok h.stops) rfl
      (portLengthOk_of_canonical h.canonical_r hr) (portLengthOk_of_canonical h.canonical_v hv)

theorem completes_rsForney (hs : s.ready = true) (hK : ConstantsLegal s.const) :
    Completes .rsForney s := by
  obtain ⟨hfails, hanswers⟩ := rsForneyComputesTheMagnitudes.2 s hs hK
  by_cases h : coef (polyA s) 0 = 0#6 ∨ deg (polyB s) ≥ deg (polyA s)
  · exact completes_of_raise (hfails h) rfl
  · obtain ⟨h0, hdeg⟩ := not_or.mp h
    obtain ⟨e, m, hans, hlen, -⟩ := hanswers h0 (Nat.lt_of_not_le hdeg)
    exact completes_of_ok hans rfl (portLengthOk_of_length_eq hlen) rfl

theorem completes_rsEnc (hs : s.ready = true) : Completes .rsEnc s := by
  obtain ⟨hwrong, hlength⟩ := rsEncMultipliesByTheGenerator.2 s hs
  by_cases hla : s.ports.la = 42#6
  · obtain ⟨c, h, hlen, -⟩ := hlength hla
    exact completes_of_ok h rfl (portLengthOk_of_length_eq hlen) rfl
  · exact completes_of_raise (hwrong hla) rfl

theorem completes_rsDec (hs : s.ready = true) (hK : ConstantsLegal s.const) :
    Completes .rsDec s := by
  have hfailed : ∀ c, Answers .rsDec s { status := c, fr := some false } →
      statusCode c ∈ allowedCodes .rsDec → Completes .rsDec s := fun c h hc =>
    ⟨_, h, by simp [responseOk], hc⟩
  by_cases hla : s.ports.la = 63#6
  · obtain ⟨c, hc⟩ | ⟨c, hstatus, hc⟩ := rsDec_result hK (maskedWord s) s.ports.em
    · exact completes_of_ok (rsDec_answers hs hla hc) rfl
        (portLengthOk_of_length_eq Vector.length_toList) rfl
    · refine hfailed c (rsDec_answers_raise hs hla hc) ?_
      obtain rfl | rfl := hstatus <;> decide
  · exact hfailed _ (rsDec_answers_badOperand hs hla) (by decide)

/-- No operation halts the engine: with legal tables each completes on every port content. -/
theorem completes (hs : s.ready = true) (hK : ConstantsLegal s.const) (i : Instr) :
    Completes i s := by
  cases i with
  | gfAdd a b | gfMul a b | pEval a | pIszero | rsRoots =>
    exact completes_of_ok (finish_ok hs _) rfl rfl rfl
  | gfDiv a b => exact completes_gfDiv hs a b
  | pAdd =>
    exact completes_of_polyResponse hs rfl (length_pAdd_le (length_polyA_le s) (length_polyB_le s))
  | pSmul c => exact completes_of_polyResponse hs rfl (length_pSmul_le _ (length_polyA_le s) c)
  | pMul => exact completes_pMul hs
  | pDivmod => exact completes_pDivmod hs hK
  | pDeriv => exact completes_of_polyResponse hs rfl (length_pDeriv_le (length_polyA_le s))
  | pTrunc m => exact completes_of_polyResponse hs rfl (length_pTrunc_le (length_polyA_le s) _)
  | rsSynd => exact completes_rsSynd hs
  | rsErasloc => exact completes_rsErasloc hs hK
  | rsModsynd => exact completes_rsModsynd hs
  | rsEuclid e0 => exact completes_rsEuclid hs hK e0
  | rsForney => exact completes_rsForney hs hK
  | rsEnc => exact completes_rsEnc hs
  | rsDec => exact completes_rsDec hs hK

end Sys2Proof.Machine
end

section
/-!
PROOFS. Transactions (10_state.md R20, R31; 20_memory.md R58; 60_exceptions.md R240, R256): with
legal tables each is answered, the response is a function of the request and the tables alone, and
so every step keeps the invariant.
-/

namespace Sys2Proof.Machine

open Sys2Proof.Safety

variable {s t u : State} {r : Request} {q : Response}

/-! ### Every transaction is answered -/

/-- Of a response to a request: its form, and its status code by the command word. -/
structure IsResponseTo (r : Request) (q : Response) : Prop where
  form : responseOk q = true
  code_of_ok : ∀ i, decode r.cmd = .ok i → statusPort q ∈ allowedCodes i
  code_of_error : ∀ e, decode r.cmd = .error e → statusPort q = 6#8

theorem exists_transact_eq (hs : s.ready = true) (hK : ConstantsLegal s.const) (r : Request) :
    ∃ q, transact s r = .next { s with ports := r, resp := some q } ∧ IsResponseTo r q := by
  cases hdecode : decode r.cmd with
  | ok i =>
    obtain ⟨q, hans, hform, hcode⟩ := completes (s := samplePorts s r) hs hK i
    refine ⟨q, (transact_of_decode_ok hdecode s).trans hans, hform, fun j hj => ?_, fun e he => ?_⟩
    · cases hdecode.symm.trans hj
      exact hcode
    · cases hdecode.symm.trans he
  | error e =>
    refine ⟨_, transact_of_decode_error hs hdecode, rfl, fun i hi => ?_, fun _ _ => rfl⟩
    cases hdecode.symm.trans hi

theorem isResponseTo_of_transact (hK : ConstantsLegal s.const) (h : transact s r = .next t) :
    ∃ q, t.resp = some q ∧ IsResponseTo r q := by
  obtain ⟨q, htransact, hq⟩ := exists_transact_eq (transact_next h).1 hK r
  obtain rfl := Host.Outcome.next.inj (htransact.symm.trans h)
  exact ⟨q, rfl, hq⟩

/-- Settles O16: the transaction's response is the one found by case of the operation. -/
theorem statusCodesByOperation : Obligations.StatusCodesByOperation := by
  intro s t r hK h
  obtain ⟨q, hq, hr⟩ := isResponseTo_of_transact hK h
  exact ⟨q, hq, hr.code_of_ok, hr.code_of_error⟩

/-! ### The invariant -/

/-- Initialisation establishes legal tables; once it has ended an idle step changes nothing. -/
theorem inv_idleStep (h : Inv s) : Inv (idleStep s) := by
  cases hs : s.ready with
  | true => rwa [idleStep_of_ready hs]
  | false =>
    rw [idleStep_of_not_ready hs]
    exact ⟨fun _ => ⟨Config.params, config_params_legal, rfl⟩, h.2⟩

/-- Settles O11, by what a step can do: a transaction keeps the tables and delivers a response, and
reset leaves none and clears `READY`. -/
theorem stepKeepsTheInvariant : Obligations.StepKeepsTheInvariant := by
  intro s t h hstep
  obtain ⟨rest, rfl⟩ | ⟨r, rest, -, htransact⟩ | ⟨-, hready, hresp⟩ := step_next hstep
  · exact inv_idleStep (s := { s with inputs := rest }) h
  · have hK : ConstantsLegal s.const := h.1 (transact_next htransact).1
    obtain ⟨q, htransact', hq⟩ :=
      exists_transact_eq (s := { s with inputs := rest }) (transact_next htransact).1 hK r
    obtain rfl := Host.Outcome.next.inj (htransact'.symm.trans htransact)
    refine ⟨fun _ => hK, fun q' hq' => ?_⟩
    obtain rfl := Option.some.inj hq'
    exact hq.form
  · refine ⟨fun hs => ?_, fun q hq => ?_⟩
    · rw [hready] at hs
      cases hs
    · rw [hresp] at hq
      cases hq

/-! ### No condition halts the engine -/

/-- While `READY = 0` a step with a command is refused, and any other step has a next state. -/
theorem step_of_not_ready (hs : s.ready = false) :
    SafeOutcome (step s) ∨ step s = .refused .commandBeforeReady := by
  cases hinputs : s.inputs with
  | nil => exact .inl ⟨_, step_of_inputs_nil hinputs⟩
  | cons x rest =>
    rw [step_of_inputs_cons hinputs]
    cases x with
    | idle | assertReset => exact .inl ⟨_, rfl⟩
    | transaction r => exact .inr (transact_of_not_ready (s := { s with inputs := rest }) hs r)
    | resetDuringTransaction r => exact .inr (if_neg (Bool.eq_false_iff.mp hs))

theorem safeOutcome_step_of_ready (hs : s.ready = true) (hK : ConstantsLegal s.const) :
    SafeOutcome (step s) := by
  cases hinputs : s.inputs with
  | nil => exact ⟨_, step_of_inputs_nil hinputs⟩
  | cons x rest =>
    rw [step_of_inputs_cons hinputs]
    cases x with
    | idle | assertReset => exact ⟨_, rfl⟩
    | transaction r =>
      obtain ⟨q, htransact, -⟩ := exists_transact_eq (s := { s with inputs := rest }) hs hK r
      exact ⟨_, htransact⟩
    | resetDuringTransaction r =>
      exact ⟨_, abandon_of_ready (s := { s with inputs := rest }) hs r⟩

/-- Settles O12: with legal tables every operation completes, and the invariant has the tables
legal whenever `READY = 1`. -/
theorem everyTransactionIsAnswered : Obligations.EveryTransactionIsAnswered := by
  refine ⟨fun s i hs hK => ?_, fun s h => ?_⟩
  · obtain ⟨r, hans, -⟩ := completes hs hK i
    exact ⟨_, hans⟩
  · cases hs : s.ready with
    | true => exact .inl (safeOutcome_step_of_ready hs (h.1 hs))
    | false => exact (step_of_not_ready hs).imp_right fun h => ⟨rfl, h⟩

/-! ### What the response depends on -/

/-- Two states that have sampled the same ports agree on whatever an operation reads. -/
theorem agreeOn_of_ports_eq (f : Format) (h : s.ports = t.ports) : AgreeOn f s t := by
  unfold AgreeOn vaAt vbAt
  rw [h]
  exact ⟨fun _ _ => ⟨rfl, fun _ _ => rfl⟩, fun _ => ⟨rfl, fun _ _ => rfl⟩, fun _ => rfl⟩

/-- The response to a request is a function of the request and the tables (20_memory.md R58). -/
theorem transact_congr (hs : s.ready = true) (hu : u.ready = true) (hconst : s.const = u.const)
    (h : transact s r = .next { s with ports := r, resp := some q }) :
    transact u r = .next { u with ports := r, resp := some q } := by
  cases hdecode : decode r.cmd with
  | ok i =>
    rw [transact_of_decode_ok hdecode] at h ⊢
    exact responsesDependOnTheNamedPorts i (samplePorts s r) (samplePorts u r) (hs.trans hu.symm)
      hconst (agreeOn_of_ports_eq _ rfl) q h
  | error e =>
    have hresp := congrArg State.resp
      (Host.Outcome.next.inj ((transact_of_decode_error hs hdecode).symm.trans h))
    rw [transact_of_decode_error hu hdecode, ← Option.some.inj hresp]

theorem run_succ_of_step (h : step s = .next t) (k : Nat) :
    Host.Core.run core (k + 1) s = Host.Core.run core k t := by
  have hcore : core.step s = .next t := h
  simp only [Host.Core.run, hcore]

/-- A run over transactions answers the last one as a state with the same tables does. -/
theorem exists_run_transactions (hs : s.ready = true) (hK : ConstantsLegal s.const)
    (hq : transact s r = .next { s with ports := r, resp := some q }) (rs : List Request)
    (hu : u.ready = true) (hconst : u.const = s.const)
    (hinputs : u.inputs = rs.map HostInput.transaction ++ [.transaction r]) :
    ∃ t : State, Host.Core.run core (rs.length + 1) u = .next t ∧ t.resp = some q ∧
      t.ready = true ∧ t.const = s.const := by
  induction rs generalizing u with
  | nil =>
    have hstep := (step_of_transaction hinputs).trans
      (transact_congr (u := { u with inputs := [] }) hs hu hconst.symm hq)
    exact ⟨_, run_succ_of_step hstep 0, rfl, hu, hconst⟩
  | cons r' rs ih =>
    obtain ⟨q', htransact, -⟩ := exists_transact_eq
      (s := { u with inputs := rs.map HostInput.transaction ++ [.transaction r] }) hu
      (hconst ▸ hK) r'
    obtain ⟨t, hrun, ht⟩ := ih (u := { u with
      inputs := rs.map HostInput.transaction ++ [.transaction r],
      ports := r', resp := some q' }) hu hconst rfl
    exact ⟨t, (run_succ_of_step ((step_of_transaction hinputs).trans htransact) _).trans hrun, ht⟩

/-- Settles O19, by induction on the earlier transactions: each leaves `READY` and the tables as
they are, and with these and the request the response is determined. -/
theorem earlierTransactionsDoNotMatter : Obligations.EarlierTransactionsDoNotMatter := by
  intro s rs r hs hK hinputs
  obtain ⟨q, hq, -⟩ := exists_transact_eq hs hK r
  obtain ⟨t, hrun, hresp, hready, hconst⟩ := exists_run_transactions hs hK hq rs hs rfl hinputs
  have hfirst := (step_of_transaction (s := { s with inputs := [.transaction r] }) rfl).trans
    (transact_congr (u := { s with inputs := [] }) hs hs rfl hq)
  exact ⟨t, _, hrun, hfirst, hresp, hready, hconst⟩

/-- `RS.SYND` and `RS.DEC` read `VA` through the masked word alone. -/
theorem answers_of_maskedWord_eq {i : Instr} (hi : i = .rsSynd ∨ i = .rsDec)
    (hready : s.ready = t.ready) (hconst : s.const = t.const) (hla : s.ports.la = t.ports.la)
    (hem : s.ports.em = t.ports.em) (hword : maskedWord s = maskedWord t) (h : Answers i s q) :
    Answers i t q := by
  obtain rfl | rfl := hi
  · exact answers_of_result_eq hready (fun _ => rfl) (by simp only [hconst, hla, hword]) h
  · exact answers_of_result_eq hready (fun _ => rfl) (by simp only [hconst, hla, hem, hword]) h

theorem maskedWord_eq_of_maskedAt_eq (h : ∀ j < 63, maskedAt s j = maskedAt t j) :
    maskedWord s = maskedWord t :=
  word_eq_of_coef_eq fun j hj => by rw [coef_maskedWord s hj, coef_maskedWord t hj, h j hj]

/-- Settles O18: the masked word has 0 at an erased position, whatever is presented there. -/
theorem erasedSymbolsAreIgnored : Obligations.ErasedSymbolsAreIgnored := by
  intro i s v r hi hv
  refine answers_of_maskedWord_eq hi rfl rfl rfl rfl (maskedWord_eq_of_maskedAt_eq fun j hj => ?_)
  exact ite_congr rfl (fun _ => rfl) fun hmark => hv j hj (Bool.eq_false_iff.mpr hmark)

/-! ### The ports an operation writes -/

/-- A computation whose result writes the ports the operation lists, and which raises no `OK`. -/
def WritesPorts (i : Instr) (x : Except Abort Response) : Prop :=
  NeverRaisesOk x ∧ ∀ r, x = .ok r → portsWritten r = portsOnOk i

variable {i : Instr}

theorem writesPorts_ok {r : Response} (h : portsWritten r = portsOnOk i) :
    WritesPorts i (.ok r) :=
  ⟨neverRaisesOk_ok r, fun _ hr => Except.ok.inj hr ▸ h⟩

theorem writesPorts_bind {α : Type} {x : Except Abort α} {f : α → Except Abort Response}
    (hx : NeverRaisesOk x) (hf : ∀ a, WritesPorts i (f a)) : WritesPorts i (x >>= f) := by
  refine ⟨hx.bind fun a => (hf a).1, fun r hr => ?_⟩
  obtain ⟨a, -, hr⟩ := bind_eq_ok hr
  exact (hf a).2 r hr

theorem writesPorts_ite_raise {p : Prop} [Decidable p] {c : Status} (hc : c ≠ .ok)
    {x : Except Abort Response} (hx : WritesPorts i x) :
    WritesPorts i (if p then .error (.raise c) else x) := by
  split
  · exact ⟨neverRaisesOk_raise hc, nofun⟩
  · exact hx

theorem neverRaisesOk_outPoly (p : Poly) : NeverRaisesOk (outPoly p) :=
  neverRaisesOk_ite (neverRaisesOk_ok p) (neverRaisesOk_raise nofun)

theorem writesPorts_polyResponse (h : portsOnOk i = [false, false, false, true, false, false])
    (p : Poly) : WritesPorts i (polyResponse p) :=
  writesPorts_bind (neverRaisesOk_outPoly p) fun _ => writesPorts_ok h.symm

/-- Every operation ends with such a computation, and a raise leaves its status. -/
theorem exec_writesPorts (i : Instr) (s : State) :
    ∃ f x, exec i s = finishWith f s x ∧ (∀ c, (f c).status = c) ∧ WritesPorts i x := by
  cases i with
  | gfAdd a b | gfMul a b | pEval a | pIszero | rsRoots =>
    exact ⟨Response.failed, .ok _, rfl, fun _ => rfl, writesPorts_ok rfl⟩
  | gfDiv a b =>
    exact ⟨_, _, rfl, fun _ => rfl,
      writesPorts_bind (neverRaisesOk_gfDiv _ _ _) fun _ => writesPorts_ok rfl⟩
  | pAdd | pSmul a | pDeriv | pTrunc m =>
    exact ⟨_, _, rfl, fun _ => rfl, writesPorts_polyResponse rfl _⟩
  | pMul | rsModsynd =>
    exact ⟨_, _, rfl, fun _ => rfl,
      writesPorts_ite_raise (by decide) (writesPorts_polyResponse rfl _)⟩
  | pDivmod =>
    exact ⟨_, _, rfl, fun _ => rfl, writesPorts_bind (neverRaisesOk_pDivmod _ _ _) fun _ =>
      writesPorts_bind (neverRaisesOk_outPoly _) fun _ =>
      writesPorts_bind (neverRaisesOk_outPoly _) fun _ => writesPorts_ok rfl⟩
  | rsSynd =>
    exact ⟨_, _, rfl, fun _ => rfl, writesPorts_ite_raise (by decide)
      (writesPorts_bind (neverRaisesOk_outPoly _) fun _ => writesPorts_ok rfl)⟩
  | rsErasloc =>
    exact ⟨_, _, rfl, fun _ => rfl, writesPorts_bind (neverRaisesOk_rsErasloc _ _) fun _ =>
      writesPorts_bind (neverRaisesOk_outPoly _) fun _ => writesPorts_ok rfl⟩
  | rsEuclid e0 =>
    exact ⟨_, _, rfl, fun _ => rfl, writesPorts_ite_raise (by decide) <|
      writesPorts_bind (neverRaisesOk_euclidLoop _ _ _ _ _ _ _) fun _ =>
      writesPorts_bind (neverRaisesOk_outPoly _) fun _ =>
      writesPorts_bind (neverRaisesOk_outPoly _) fun _ => writesPorts_ok rfl⟩
  | rsForney =>
    exact ⟨_, _, rfl, fun _ => rfl,
      writesPorts_bind (neverRaisesOk_rsForney _ _ _) fun _ => writesPorts_ok rfl⟩
  | rsEnc => exact ⟨_, _, rfl, fun _ => rfl, writesPorts_ite_raise (by decide) (writesPorts_ok rfl)⟩
  | rsDec =>
    exact ⟨_, _, rfl, fun _ => rfl, writesPorts_ite_raise (by decide)
      (writesPorts_bind (neverRaisesOk_rsDec _ _ _) fun _ => writesPorts_ok rfl)⟩

/-- Settles O15: a response with `OK` was computed, since no operation raises `OK`. -/
theorem okResponsesWriteTheListedPorts : Obligations.OkResponsesWriteTheListedPorts := by
  intro i s t r h hr hok
  obtain ⟨f, x, hexec, hf, hraise, hports⟩ := exec_writesPorts i s
  obtain ⟨-, ⟨q, hq, rfl⟩ | ⟨c, hc, rfl⟩⟩ := finishWith_next (hexec ▸ h)
  · obtain rfl := Option.some.inj hr
    exact hports q hq
  · obtain rfl := Option.some.inj hr
    rw [hf] at hok
    exact absurd (hok ▸ hc) hraise

end Sys2Proof.Machine
end

section
/-!
PROOFS. `RS.DEC` as the composition of the stage operations (44_decoder_top.md R221, R222): what a
stage answered on the vector ports tells what its function computed, and the decoder computes the
same.
-/

namespace Sys2Proof.Machine

open Sys2Proof.Safety

variable {s : State} {q : Response} {i : Instr}

/-! ### Words as lists -/

theorem toList_eq_map_coef (w : Word63) : w.toList = (List.range 63).map (coef w.toList) := by
  refine List.ext_getElem (by simp) fun i hi _ => ?_
  rw [List.getElem_map, List.getElem_range, coef_of_lt hi]

theorem toList_maskedWord (s : State) :
    (maskedWord s).toList = (List.range 63).map (maskedAt s) := by
  rw [toList_eq_map_coef]
  exact List.map_congr_left fun i hi => coef_maskedWord s (List.mem_range.mp hi)

theorem coef_correctedWord (w : Word63) (e : List Sym) {i : Nat} (hi : i < 63) :
    coef (correctedWord w e).toList i = coef w.toList i ^^^ coef e i := by
  rw [coef_of_lt (by simpa using hi), coef_of_lt (by simpa using hi)]
  simp [correctedWord, coef]

theorem toList_correctedWord_maskedWord (s : State) (e : List Sym) :
    (correctedWord (maskedWord s) e).toList =
      (List.range 63).map fun i => maskedAt s i ^^^ coef e i := by
  rw [toList_eq_map_coef]
  refine List.map_congr_left fun i hi => ?_
  have hi := List.mem_range.mp hi
  rw [coef_correctedWord _ _ hi, coef_maskedWord s hi]

/-- Settles O50: the first step of the decoder is the test of the syndromes. -/
theorem rsDecFastPath : Obligations.RsDecFastPath := by
  intro s hs hla hzero
  have hans := rsDec_answers hs hla (rsDec_of_syndromes_zero s.const s.ports.em fun k hk =>
    (syndrome_maskedWord s (k + 1)).trans (hzero k hk))
  rwa [toList_maskedWord] at hans

/-- Settles O53: it is the first part of O54, the case of no errors and no erasures. -/
theorem decodingAnEncodedMessageReturnsIt : Obligations.DecodingAnEncodedMessageReturnsIt := by
  intro s hs hK hla
  obtain ⟨c, henc, -, hdec⟩ := correctionWithinTheBound.1 s hs hK hla
  exact ⟨c, henc, hdec⟩

/-! ### From the response to the result -/

/-- A response with a vector result was computed, not raised. -/
theorem result_of_answers {x : Except Abort Response} (hexec : exec i s = finish s x)
    (h : Answers i s q) (hvr : q.vr.isSome = true) : x = .ok q := by
  obtain ⟨-, ⟨r, hx, hr⟩ | ⟨c, -, hc⟩⟩ := finishWith_next (hexec.symm.trans h)
  · rw [hx, Option.some.inj (congrArg State.resp hr)]
  · rw [Option.some.inj (congrArg State.resp hc)] at hvr
    cases hvr

/-- A result on a vector port fits it, and is the polynomial itself. -/
theorem outPoly_bind_eq_ok {α : Type} {p : Poly} {f : List Sym → Except Abort α} {a : α}
    (h : outPoly p >>= f = .ok a) : p.length ≤ capacity ∧ f p = .ok a := by
  obtain ⟨v, hv, ha⟩ := bind_eq_ok h
  obtain ⟨rfl, hlen⟩ := outPoly_eq_ok hv
  exact ⟨hlen, ha⟩

theorem polyResponse_eq_ok {p : Poly} (h : polyResponse p = .ok q) :
    q.vr = some p ∧ p.length ≤ capacity := by
  obtain ⟨hlen, hq⟩ := outPoly_bind_eq_ok h
  exact ⟨congrArg Response.vr (Except.ok.inj hq).symm, hlen⟩

theorem rsSynd_of_answers (hs : s.ready = true) (hla : s.ports.la = 63#6) {p : Poly} {f : Bool}
    (h : Answers .rsSynd s { status := .ok, vr := some p, fr := some f }) :
    p = rsSynd s.const (maskedWord s) ∧ f = isZero (rsSynd s.const (maskedWord s)) := by
  have hr := answers_unique h (rsSynd_answers hs hla)
  exact ⟨Option.some.inj (congrArg Response.vr hr), Option.some.inj (congrArg Response.fr hr)⟩

theorem rsErasloc_of_answers (hs : s.ready = true) {g : Poly} {n : BitVec 6}
    (h : Answers .rsErasloc s { status := .ok, vr := some g, cr := some n }) :
    markedCount s.ports.em ≤ 21 ∧ g = erasureProduct s.const s.ports.em 63 ∧
      n.toNat = markedCount s.ports.em ∧ g.length ≤ capacity := by
  obtain hcount | hcount := Nat.lt_or_ge 21 (markedCount s.ports.em)
  · cases congrArg Response.status (answers_unique h (rsErasloc_answers_raise hs hcount))
  have hresult := result_of_answers rfl h rfl
  rw [rsErasloc_of_le _ hcount] at hresult
  obtain ⟨hlen, hr⟩ := outPoly_bind_eq_ok (p := erasureProduct s.const s.ports.em 63) hresult
  have hg : erasureProduct s.const s.ports.em 63 = g :=
    Option.some.inj (congrArg Response.vr (Except.ok.inj hr))
  have hn : BitVec.ofNat 6 (markedCount s.ports.em) = n :=
    Option.some.inj (congrArg Response.cr (Except.ok.inj hr))
  refine ⟨hcount, hg.symm, ?_, hg ▸ hlen⟩
  rw [← hn, BitVec.toNat_ofNat, Nat.mod_eq_of_lt (by omega)]

theorem rsModsynd_of_answers {t : Poly}
    (h : Answers .rsModsynd s { status := .ok, vr := some t }) :
    t = rsModsynd s.const (polyA s) (polyB s) ∧ t.length ≤ capacity := by
  have hresult := result_of_answers rfl h rfl
  split_ifs at hresult
  obtain ⟨ht, hlen⟩ := polyResponse_eq_ok hresult
  obtain rfl := Option.some.inj ht
  exact ⟨rfl, hlen⟩

theorem pMul_of_answers {l : Poly} (h : Answers .pMul s { status := .ok, vr := some l }) :
    l = pMul s.const (polyA s) (polyB s) ∧ l.length ≤ capacity := by
  have hresult := result_of_answers rfl h rfl
  split_ifs at hresult
  obtain ⟨hl, hlen⟩ := polyResponse_eq_ok hresult
  obtain rfl := Option.some.inj hl
  exact ⟨rfl, hlen⟩

theorem rsEuclid_of_answers {n : BitVec 6} {v r : Poly}
    (h : Answers (.rsEuclid n) s { status := .ok, vq := some v, vr := some r }) :
    rsEuclid s.const (polyA s) n.toNat = .ok (v, r) ∧ v.length ≤ capacity ∧
      r.length ≤ capacity := by
  have hresult := result_of_answers rfl h rfl
  split_ifs at hresult
  obtain ⟨⟨v', r'⟩, heuclid, hresult⟩ := bind_eq_ok hresult
  obtain ⟨hv, hresult⟩ := outPoly_bind_eq_ok (p := v') hresult
  obtain ⟨hr, hresult⟩ := outPoly_bind_eq_ok (p := r') hresult
  cases hresult
  exact ⟨heuclid, hv, hr⟩

theorem count_of_rsForney_eq_ok {K : Constants} {l w : Poly} {e : List Sym} {m : Mask63} {n : Nat}
    (h : rsForney K l w = .ok (e, m, n)) : n = popcount (rsRoots K l) := by
  unfold rsForney at h
  generalize rsRoots K l = roots at h ⊢
  split_ifs at h
  obtain ⟨e', -, h⟩ := bind_eq_ok h
  exact congrArg (fun x : List Sym × Mask63 × Nat => x.2.2) (Except.ok.inj h).symm

theorem popcount_le (m : Mask63) : popcount m ≤ 63 :=
  List.count_le_length.trans_eq Vector.length_toList

theorem rsForney_of_answers {e : List Sym} {m : Mask63} {k : BitVec 6}
    (h : Answers .rsForney s { status := .ok, vr := some e, rm := some m, cr := some k }) :
    rsForney s.const (polyA s) (polyB s) = .ok (e, m, k.toNat) := by
  obtain ⟨⟨e', m', n⟩, hforney, hresult⟩ := bind_eq_ok (result_of_answers rfl h rfl)
  cases hresult
  have hn : n < 2 ^ 6 := by
    have hle := popcount_le (rsRoots s.const (polyA s))
    rw [← count_of_rsForney_eq_ok hforney] at hle
    omega
  rw [hforney, BitVec.toNat_ofNat, Nat.mod_eq_of_lt hn]

theorem rsForney_of_answers_decodeFailure
    (h : Answers .rsForney s { status := .decodeFailure }) :
    rsForney s.const (polyA s) (polyB s) = .error (.raise .decodeFailure) := by
  rw [Answers, exec, execRsForney] at h
  obtain ⟨-, ⟨r, hr, hresp⟩ | ⟨c, hc, hresp⟩⟩ := finishWith_next h
  · obtain ⟨x, -, hx⟩ := bind_eq_ok hr
    obtain rfl := Except.ok.inj hx
    cases congrArg Response.status (Option.some.inj (congrArg State.resp hresp))
  · have hstatus : Status.decodeFailure = c :=
      congrArg Response.status (Option.some.inj (congrArg State.resp hresp))
    cases hforney : rsForney s.const (polyA s) (polyB s) with
    | ok x =>
      rw [hforney] at hc
      cases hc
    | error a =>
      rw [hforney] at hc
      rw [hstatus]
      exact congrArg Except.error (Except.error.inj hc)

/-! ### The stages one after another -/

@[simp] theorem putA_const (s : State) (p : List Sym) : (putA s p).const = s.const := rfl
@[simp] theorem putB_const (s : State) (p : List Sym) : (putB s p).const = s.const := rfl

/-- What the stages before `RS.FORNEY` computed. -/
structure StagesCompute (s : State) (v r l : Poly) : Prop where
  not_zero : isZero (rsSynd s.const (maskedWord s)) = false
  count_le : markedCount s.ports.em ≤ 21
  euclid : rsEuclid s.const (rsModsynd s.const (erasureProduct s.const s.ports.em 63)
    (rsSynd s.const (maskedWord s))) (markedCount s.ports.em) = .ok (v, r)
  locator_eq : l = pMul s.const v (erasureProduct s.const s.ports.em 63)
  polyA_eq : polyA (putB (putA s l) r) = l
  polyB_eq : polyB (putB (putA s l) r) = r

theorem stagesCompute_of_answers {synd g t v r l : Poly} {n : BitVec 6} (hs : s.ready = true)
    (hla : s.ports.la = 63#6)
    (hsynd : Answers .rsSynd s { status := .ok, vr := some synd, fr := some false })
    (herasloc : Answers .rsErasloc s { status := .ok, vr := some g, cr := some n })
    (hmodsynd : Answers .rsModsynd (putB (putA s g) synd) { status := .ok, vr := some t })
    (heuclid : Answers (.rsEuclid n) (putA s t) { status := .ok, vq := some v, vr := some r })
    (hmul : Answers .pMul (putB (putA s v) g) { status := .ok, vr := some l }) :
    StagesCompute s v r l := by
  obtain ⟨hsynd, hzero⟩ := rsSynd_of_answers hs hla hsynd
  obtain ⟨hcount, hg, hn, hglen⟩ := rsErasloc_of_answers hs herasloc
  have hgcan : Poly.canonical g = true := hg ▸ canonical_erasureProduct _ _ _
  have hscan : Poly.canonical synd = true := hsynd ▸ canonical_rsSynd _ _
  have hslen : synd.length ≤ 63 := hsynd ▸ length_rsSynd_le _ _
  obtain ⟨ht, htlen⟩ := rsModsynd_of_answers hmodsynd
  rw [polyA_putB, polyA_putA s hgcan hglen, polyB_putB _ hscan hslen, putB_const, putA_const] at ht
  have htcan : Poly.canonical t = true := ht ▸ canonical_norm _
  obtain ⟨hvr, hvlen, hrlen⟩ := rsEuclid_of_answers heuclid
  rw [polyA_putA s htcan htlen, putA_const, hn] at hvr
  obtain ⟨hvcan, hrcan⟩ := canonical_of_rsEuclid_eq_ok htcan hvr
  obtain ⟨hl, hllen⟩ := pMul_of_answers hmul
  rw [polyA_putB, polyA_putA s hvcan hvlen, polyB_putB _ hgcan hglen, putB_const, putA_const] at hl
  have hlcan : Poly.canonical l = true := hl ▸ canonical_pMul _ _ _
  exact {
    not_zero := hzero.symm
    count_le := hcount
    euclid := by rw [← hg, ← hsynd, ← ht, hvr]
    locator_eq := by rw [← hg, hl]
    polyA_eq := by rw [polyA_putB, polyA_putA s hlcan hllen]
    polyB_eq := polyB_putB _ hrcan hrlen }

theorem StagesCompute.rsDec_eq {v r l : Poly} (h : StagesCompute s v r l) :
    rsDec s.const (maskedWord s) s.ports.em =
      correctErrors s.const (maskedWord s) s.ports.em (rsSynd s.const (maskedWord s)) :=
  if_neg (Bool.eq_false_iff.mp h.not_zero)

/-- Settles O52: the decoder goes through the same functions on the same operands. -/
theorem rsDecIsTheStagedDecode : Obligations.RsDecIsTheStagedDecode := by
  intro s synd g t v r l n hs hla hsynd herasloc hmodsynd heuclid hmul
  have h := stagesCompute_of_answers hs hla hsynd herasloc hmodsynd heuclid hmul
  refine ⟨fun e m k hforney => ?_, fun hforney => ?_⟩
  · have hforney := rsForney_of_answers hforney
    rw [h.polyA_eq, h.polyB_eq, putB_const, putA_const, h.locator_eq] at hforney
    have hdec := h.rsDec_eq.trans
      (correctErrors_of_forney_ok (maskedWord s) h.count_le h.euclid hforney)
    rw [← h.locator_eq] at hdec
    by_cases hk : k.toNat = deg l
    · rw [if_neg (not_not.mpr hk)] at hdec
      rw [if_pos hk, ← toList_correctedWord_maskedWord]
      exact rsDec_answers hs hla hdec
    · rw [if_pos hk] at hdec
      rw [if_neg hk]
      exact rsDec_answers_raise hs hla hdec
  · have hforney := rsForney_of_answers_decodeFailure hforney
    rw [h.polyA_eq, h.polyB_eq, putB_const, putA_const, h.locator_eq] at hforney
    exact rsDec_answers_raise hs hla
      (h.rsDec_eq.trans (correctErrors_of_forney_error (maskedWord s) h.count_le h.euclid hforney))

end Sys2Proof.Machine
end

section
/-!
PROOFS. What success of `RS.DEC` means (44_decoder_top.md R227): if the count of located positions
is the locator's degree, the magnitudes are a pattern with the solver's locator and evaluator, its
syndromes are those of the masked word, and adding it leaves a codeword.
-/

namespace Sys2Proof.Machine

open Polynomial
open Sys2Proof.Safety

variable {K : Constants} {F : Type} [Field F] {φ : Sym → F}

/-! ### A locator with as many roots as its degree -/

section
variable {x e : Nat → F} {s : Finset Nat} {l r : F[X]}

theorem injOn_inv (hinj : Set.InjOn x s) : Set.InjOn (fun i => (x i)⁻¹) s :=
  fun _ hi _ hj h => hinj hi hj (inv_injective h)

variable [CharP F 2]

/-- A polynomial that vanishes at the points of as many positions as its degree is their locator,
up to a factor. -/
theorem exists_locator_eq_C_mul (hx : ∀ i, x i ≠ 0) (hinj : Set.InjOn x s) (hl0 : l ≠ 0)
    (hdeg : l.natDegree = s.card) (hroots : ∀ i ∈ s, l.eval (x i)⁻¹ = 0) :
    ∃ a : F, a ≠ 0 ∧ locator x s = C a * l := by
  have hlocator0 := locator_ne_zero hx s
  have ha : (locator x s).leadingCoeff / l.leadingCoeff ≠ 0 :=
    div_ne_zero (leadingCoeff_ne_zero.mpr hlocator0) (leadingCoeff_ne_zero.mpr hl0)
  refine ⟨_, ha, eq_of_degree_le_of_eval_index_eq s (injOn_inv hinj) ?_ ?_ ?_ fun i hi => ?_⟩
  · rw [degree_eq_natDegree hlocator0, natDegree_locator hx]
  · rw [degree_C_mul ha, degree_eq_natDegree hlocator0, degree_eq_natDegree hl0,
      natDegree_locator hx, hdeg]
  · rw [leadingCoeff_mul, leadingCoeff_C, div_mul_cancel₀ _ (leadingCoeff_ne_zero.mpr hl0)]
  · rw [eval_mul, hroots i hi, mul_zero]
    exact (eval_inv_locator_eq_zero_iff (hx i) s).mpr ⟨i, hi, rfl⟩

/-- A short polynomial with the values that Forney's formula asks for is the evaluator, up to the
locator's factor. -/
theorem evaluator_eq_C_mul (hx : ∀ i, x i ≠ 0) (hinj : Set.InjOn x s) {a : F}
    (hl : locator x s = C a * l) (hdeg : r.natDegree < s.card)
    (hforney : ∀ i ∈ s, e i * (derivative l).eval (x i)⁻¹ = r.eval (x i)⁻¹) :
    evaluator x e s = C a * r := by
  refine eq_of_degrees_lt_of_eval_index_eq s (injOn_inv hinj) ?_ ?_ fun i hi => ?_
  · refine degree_le_natDegree.trans_lt (Nat.cast_lt.mpr ?_)
    have hle := natDegree_evaluator_le hx e s
    omega
  · exact degree_le_natDegree.trans_lt
      (Nat.cast_lt.mpr ((natDegree_C_mul_le _ _).trans_lt hdeg))
  · rw [eval_inv_evaluator (hx i) e hi, hl, derivative_C_mul, eval_mul, eval_mul, eval_C,
      ← hforney i hi]
    ring

/-- Syndromes that solve the key equation of a pattern's locator and evaluator, up to a factor, are
the pattern's: the locator is invertible modulo `X ^ m`. -/
theorem coeff_eq_of_keyEquation {m : Nat} {p : F[X]} {a : F} (hl : locator x s = C a * l)
    (hr : evaluator x e s = C a * r) (hkey : X ^ m ∣ l * p + r) {k : Nat} (hk : k < m) :
    p.coeff k = ∑ i ∈ s, e i * x i ^ (k + 1) := by
  have hsum : locator x s * (patternSyndromes m x e s + p) =
      (locator x s * patternSyndromes m x e s + evaluator x e s) + C a * (l * p + r) := by
    linear_combination p * hl - hr - C a * r * CharTwo.two_eq_zero (R := F[X])
  have hdvd : X ^ m ∣ locator x s * (patternSyndromes m x e s + p) := by
    rw [hsum]
    exact dvd_add (keyEquation m x e s) (hkey.mul_left _)
  have hcoprime : IsCoprime (X ^ m) (locator x s) := by
    refine (irreducible_X.coprime_iff_not_dvd.mpr fun h => ?_).pow_left
    rw [X_dvd_iff, coeff_zero_eq_eval_zero, eval_zero_locator] at h
    exact one_ne_zero h
  have hcoeff := X_pow_dvd_iff.mp (hcoprime.dvd_of_dvd_mul_left hdvd) k hk
  rw [coeff_add, CharTwo.add_eq_zero, coeff_patternSyndromes, if_pos hk] at hcoeff
  exact hcoeff.symm

end

/-! ### What the decoder computed -/

/-- What it means that steps 2 to 6 of the decoder succeed: the solver answered `v` and `r`, the
combined locator is `l` and has as many located positions as its degree, and the magnitudes are
`e`. -/
structure Corrects (K : Constants) (w : Word63) (em : Mask63) (v r l : Poly) (e : List Sym)
    (c : Word63) : Prop where
  count_le : markedCount em ≤ 21
  solves : SolvesKeyEquation K (rsModsynd K (erasureProduct K em 63) (rsSynd K w))
    (markedCount em) v r
  locator_eq : l = pMul K v (erasureProduct K em 63)
  coef_zero : coef l 0 ≠ 0#6
  deg_lt : deg r < deg l
  magnitude : ∀ i < 63, IsMagnitude K l r (pDeriv l) i (coef e i)
  count_eq : markedCount (rsRoots K l) = deg l
  word_eq : c = correctedWord w e

theorem rsForney_eq_ok (hK : ConstantsLegal K) {l r : Poly} {e : List Sym} {m : Mask63} {n : Nat}
    (h : rsForney K l r = .ok (e, m, n)) :
    coef l 0 ≠ 0#6 ∧ deg r < deg l ∧ ∀ i < 63, IsMagnitude K l r (pDeriv l) i (coef e i) := by
  obtain ⟨es, hes, hmagnitude⟩ := exists_magnitudes_eq_ok hK l r (pDeriv l)
  rw [rsForney, pEval, if_pos rfl, hes] at h
  generalize rsRoots K l = roots at h
  split_ifs at h with h0 hdeg
  have he : es = e := congrArg Prod.fst (Except.ok.inj h)
  exact ⟨h0, Nat.lt_of_not_le hdeg, he ▸ hmagnitude⟩

theorem exists_corrects (hK : ConstantsLegal K) {w c : Word63} {em : Mask63}
    (h : correctErrors K w em (rsSynd K w) = .ok c) : ∃ v r l e, Corrects K w em v r l e c := by
  obtain hcount | hcount := Nat.lt_or_ge 21 (markedCount em)
  · rw [correctErrors, rsErasloc_of_lt K hcount] at h
    cases h
  obtain ⟨v, r, heuclid, hsolves⟩ := exists_solvesKeyEquation hK hcount
    (t := rsModsynd K (erasureProduct K em 63) (rsSynd K w)) (canonical_norm _)
    (deg_rsModsynd_le K _ _)
  obtain ⟨e, hforney⟩ | hforney := rsForney_result hK (pMul K v (erasureProduct K em 63)) r
  · obtain ⟨h0, hdeg, hmagnitude⟩ := rsForney_eq_ok hK hforney
    rw [correctErrors_of_forney_ok w hcount heuclid hforney] at h
    split_ifs at h with hne
    exact ⟨v, r, _, e, hcount, hsolves, rfl, h0, hdeg, hmagnitude,
      (popcount_eq_markedCount _).symm.trans (not_not.mp hne), (Except.ok.inj h).symm⟩
  · rw [correctErrors_of_forney_error w hcount heuclid hforney] at h
    cases h

/-- The solver's key equation, with the erasure locator moved from the syndromes to the locator. -/
theorem SolvesKeyEquation.dvd [CharP F 2] (h : IsFieldMap K φ) {g synd v r : Poly} {e0 : Nat}
    (hsolves : SolvesKeyEquation K (rsModsynd K g synd) e0 v r) :
    X ^ 21 ∣ toPoly φ (pMul K v g) * toPoly φ synd + toPoly φ r := by
  have hlaw : X ^ 21 ∣ toPoly φ v * toPoly φ (rsModsynd K g synd) + toPoly φ r := by
    refine X_pow_dvd_iff.mpr fun k hk => ?_
    rw [coeff_add, h.coeff_toPoly_mul, h.coeff_toPoly, hsolves.law k (Nat.le_of_lt_succ hk),
      CharTwo.add_self_eq_zero]
  rw [h.toPoly_pMul, mul_assoc]
  refine dvd_keyEquation_of_modified (g := 1) (p := toPoly φ (rsModsynd K g synd)) ?_ ?_
  · rwa [mul_one]
  · rw [one_mul, add_comm]
    exact h.dvd_modsynd g synd

/-- The located positions. -/
def locatedSet (K : Constants) (l : Poly) : Finset Nat := erasedSet (rsRoots K l)

theorem mem_locatedSet {l : Poly} {i : Nat} :
    i ∈ locatedSet K l ↔ i < 63 ∧ locatedAt K l (pDeriv l) i = true := by
  rw [locatedSet, mem_erasedSet]
  exact and_congr_right fun hi => by rw [maskAt_rsRoots K l hi]

theorem pEval_eq_zero_of_locatedAt {l d : Poly} {i : Nat} (h : locatedAt K l d i = true) :
    pEval K l (locatorPoint K i) = 0#6 :=
  beq_iff_eq.mp (Bool.and_eq_true_iff.mp h).1

section
variable {w c : Word63} {em : Mask63} {v r l : Poly} {e : List Sym}

/-- The magnitudes are a pattern on the located positions with the solver's locator and
evaluator. -/
theorem Corrects.exists_scaled [CharP F 2] (hc : Corrects K w em v r l e c) (h : IsFieldMap K φ)
    (hK : ConstantsLegal K) :
    ∃ a : F, locator (posPow K φ) (locatedSet K l) = C a * toPoly φ l ∧
      evaluator (posPow K φ) (fun i => φ (coef e i)) (locatedSet K l) = C a * toPoly φ r := by
  have hcanonical : Poly.canonical l = true := hc.locator_eq ▸ canonical_pMul _ _ _
  have hx := h.posPow_ne_zero hK
  have hinj : Set.InjOn (posPow K φ) (locatedSet K l) :=
    h.posPow_injOn hK fun i hi => Finset.mem_range.mpr (mem_locatedSet.mp hi).1
  have hcard : (locatedSet K l).card = deg l := (card_erasedSet _).trans hc.count_eq
  have hl0 : l ≠ [0#6] := by
    rintro rfl
    exact hc.coef_zero rfl
  obtain ⟨a, -, hl⟩ := exists_locator_eq_C_mul hx hinj (h.toPoly_ne_zero hcanonical hl0)
    ((h.natDegree_toPoly hcanonical).trans hcard.symm) fun i hi => by
      obtain ⟨hi, hlocated⟩ := mem_locatedSet.mp hi
      rw [← h.map_locatorPoint hK hi, ← h.map_pEval hK, pEval_eq_zero_of_locatedAt hlocated,
        h.map_zero]
  refine ⟨a, hl, evaluator_eq_C_mul hx hinj hl
    ((h.natDegree_toPoly_le r).trans_lt (hc.deg_lt.trans_eq hcard.symm)) fun i hi => ?_⟩
  obtain ⟨hi, hlocated⟩ := mem_locatedSet.mp hi
  rw [← h.map_locatorPoint hK hi, ← h.toPoly_pDeriv, ← h.map_pEval hK, ← h.map_pEval hK,
    ← h.map_gfMul, (hc.magnitude i hi).of_located hlocated]

/-- The magnitudes' syndromes are the word's. -/
theorem Corrects.map_syndrome (hc : Corrects K w em v r l e c) (h : IsFieldMap K φ)
    (hK : ConstantsLegal K) {k : Nat} (hk : k < 21) :
    φ (syndrome K w (k + 1)) =
      ∑ i ∈ locatedSet K l, φ (coef e i) * posPow K φ i ^ (k + 1) := by
  have := h.charP
  obtain ⟨a, hl, hr⟩ := hc.exists_scaled h hK
  have hcoeff := coeff_eq_of_keyEquation hl hr (hc.locator_eq ▸ hc.solves.dvd h) hk
  rwa [h.coeff_toPoly, coef_rsSynd, if_pos hk] at hcoeff

theorem IsFieldMap.map_syndrome_eq_sum (h : IsFieldMap K φ) (hK : ConstantsLegal K) (w : Word63)
    (j : Nat) :
    φ (syndrome K w j) = ∑ i ∈ Finset.range 63, φ (coef w.toList i) * posPow K φ i ^ j := by
  rw [syndrome, h.map_xorSum]
  exact Finset.sum_congr rfl fun i _ => by
    rw [h.map_gfMul, Nat.mul_comm, ← power_alphaPow hK, h.map_power, posPow]

/-- Off the located positions the word is not changed. -/
theorem Corrects.coef_eq_zero (hc : Corrects K w em v r l e c) {i : Nat} (hi : i < 63)
    (h : i ∉ locatedSet K l) : coef e i = 0#6 :=
  (hc.magnitude i hi).of_not_located
    (Bool.eq_false_iff.mpr fun hlocated => h (mem_locatedSet.mpr ⟨hi, hlocated⟩))

/-- Adding the magnitudes to the word cancels its syndromes. -/
theorem Corrects.isCodeword (hc : Corrects K w em v r l e c) (hK : ConstantsLegal K) :
    IsCodeword K c := by
  obtain ⟨F, _, φ, h⟩ := exists_isFieldMap hK
  have := h.charP
  refine (isCodeword_iff hK c).mpr fun k hk => h.map_eq_zero_iff.mp ?_
  have hterm : ∀ i ∈ Finset.range 63, φ (coef c.toList i) * posPow K φ i ^ (k + 1) =
      φ (coef w.toList i) * posPow K φ i ^ (k + 1) +
        φ (coef e i) * posPow K φ i ^ (k + 1) := fun i hi => by
    rw [hc.word_eq, coef_correctedWord w e (Finset.mem_range.mp hi), h.map_xor, add_mul]
  have hpattern : ∑ i ∈ Finset.range 63, φ (coef e i) * posPow K φ i ^ (k + 1) =
      φ (syndrome K w (k + 1)) := by
    rw [hc.map_syndrome h hK hk]
    refine (Finset.sum_subset (fun i hi => Finset.mem_range.mpr (mem_locatedSet.mp hi).1)
      fun i hi hmem => ?_).symm
    rw [hc.coef_eq_zero (Finset.mem_range.mp hi) hmem, h.map_zero, zero_mul]
  rw [h.map_syndrome_eq_sum hK, Finset.sum_congr rfl hterm, Finset.sum_add_distrib, hpattern,
    ← h.map_syndrome_eq_sum hK, CharTwo.add_self_eq_zero]

/-- The combined locator's degree is bounded by the solver's bound and the erasures. -/
theorem Corrects.deg_le (hc : Corrects K w em v r l e c) (hK : ConstantsLegal K) : deg l ≤ 21 := by
  obtain ⟨-, hv⟩ := hc.solves.stops
  have hg0 : erasureProduct K em 63 ≠ [0#6] := fun h0 => by
    have hone := coef_erasureProduct_zero hK em
    rw [h0] at hone
    exact absurd hone (by decide)
  have hcount := hc.count_le
  rw [hc.locator_eq, deg_pMul hK hc.solves.canonical_v (canonical_erasureProduct K em 63)
    hc.solves.v_ne_zero hg0, deg_erasureProduct hK]
  omega

/-- The number of positions at which two words differ. -/
def differences (w c : Word63) : Nat :=
  ((List.range 63).filter fun i => coef w.toList i != coef c.toList i).length

theorem Corrects.differences_le (hc : Corrects K w em v r l e c) (hK : ConstantsLegal K) :
    differences w c ≤ 21 := by
  refine le_trans ?_ (hc.deg_le hK)
  rw [differences, ← card_filter_range, ← hc.count_eq, ← card_erasedSet]
  refine Finset.card_le_card fun i hi => ?_
  obtain ⟨hi, hne⟩ := Finset.mem_filter.mp hi
  have hi := Finset.mem_range.mp hi
  by_contra hmem
  rw [hc.word_eq, coef_correctedWord w e hi, hc.coef_eq_zero hi hmem, BitVec.xor_zero,
    bne_self_eq_false] at hne
  exact Bool.false_ne_true hne

end

theorem differences_self (w : Word63) : differences w w = 0 := by
  simp [differences]

/-- What the decoder answers on a masked word. -/
theorem isCodeword_of_rsDec_eq_ok (hK : ConstantsLegal K) {w c : Word63} {em : Mask63}
    (h : rsDec K w em = .ok c) : IsCodeword K c ∧ differences w c ≤ 21 := by
  by_cases hzero : ∀ k < 21, syndrome K w (k + 1) = 0#6
  · rw [rsDec_of_syndromes_zero K em hzero] at h
    obtain rfl := Except.ok.inj h
    exact ⟨(isCodeword_iff hK w).mpr hzero, (differences_self w).trans_le (Nat.zero_le _)⟩
  · have hne : ∃ k < 21, syndrome K w (k + 1) ≠ 0#6 := by simpa using hzero
    rw [rsDec_of_syndrome_ne_zero K em hne] at h
    obtain ⟨v, r, l, e, hc⟩ := exists_corrects hK h
    exact ⟨hc.isCodeword hK, hc.differences_le hK⟩

/-! ### The operation -/

/-- A response with `FR = 1` carries the word the decoder answered. -/
theorem rsDec_eq_ok_of_next {s t : State} {r : Response} (h : exec .rsDec s = .next t)
    (hr : t.resp = some r) (hfr : r.fr = some true) :
    ∃ c, rsDec s.const (maskedWord s) s.ports.em = .ok c ∧ r.vr = some c.toList := by
  rw [exec] at h
  by_cases hla : s.ports.la = 63#6
  · rw [execRsDec_of_length_eq hla] at h
    obtain ⟨-, ⟨q, hq, rfl⟩ | ⟨c, -, rfl⟩⟩ := finishWith_next h
    · cases hdec : rsDec s.const (maskedWord s) s.ports.em with
      | ok c =>
        rw [hdec] at hq
        refine ⟨c, rfl, ?_⟩
        rw [← Option.some.inj hr, ← Except.ok.inj hq]
        rfl
      | error a =>
        rw [hdec] at hq
        cases hq
    · rw [← Option.some.inj hr] at hfr
      cases hfr
  · rw [execRsDec_of_length_ne hla] at h
    obtain ⟨-, ⟨q, hq, -⟩ | ⟨c, -, rfl⟩⟩ := finishWith_next h
    · cases hq
    · rw [← Option.some.inj hr] at hfr
      cases hfr

/-- Settles O55: the fast path answers a word with zero syndromes; past it, success means that the
magnitudes are a pattern on at most 21 positions with the word's syndromes. -/
theorem successfulDecodesAreCodewords : Obligations.SuccessfulDecodesAreCodewords := by
  intro s t r hK h hr hfr
  obtain ⟨c, hdec, hvr⟩ := rsDec_eq_ok_of_next h hr hfr
  obtain ⟨hcode, hdiff⟩ := isCodeword_of_rsDec_eq_ok hK hdec
  refine ⟨c, hvr, hcode, le_trans (le_of_eq (congrArg List.length ?_)) hdiff⟩
  exact List.filter_congr fun i hi => by rw [coef_maskedWord s (List.mem_range.mp hi)]

end Sys2Proof.Machine
end
